-- ==== Sys2Proof/Word.lean ====
section
/-! DEFINITION. The value types of the machine: bytes, 16-bit words, 12-bit addresses of an instruction, nibbles and
register numbers (`00_scope.md` R9, R17). Every quantity is unsigned; there is no sign extension anywhere. -/

namespace Sys2Proof

/-- 8 bits: a general register, a memory cell, a timer, an immediate `NN`. -/
abbrev Byte := BitVec 8

/-- 16 bits: an instruction word, `I`, `pc`, a call-stack entry. -/
abbrev Word := BitVec 16

/-- The 12-bit address literal `NNN` of an instruction word. -/
abbrev Addr12 := BitVec 12

/-- The 4-bit literal `N` of an instruction word. -/
abbrev Nibble := BitVec 4

/-- A general register's number, 0 to 15: a register field always names a valid register (R21). -/
abbrev Reg := Fin 16

/-- `VF`, the register that doubles as carry, no-borrow and collision flag (R24). -/
abbrev vf : Reg := 15

end Sys2Proof
end

