-- ==== Sys2Proof/Syntax.lean ====
section
/-! DEFINITION. The 34 instructions (`30_encoding.md` R105), one constructor per row of the opcode table, in the table's order.
Every operand has the exact type of its field, so every term is an instruction the encoding can hold (R21, R94, R103).
`SHR` and `SHL` keep the field `Y` that they decode and ignore (R102). -/

namespace Sys2Proof

inductive Instr where
  /-- `00E0` -/
  | cls
  /-- `00EE` -/
  | ret
  /-- `1NNN` -/
  | jpAddr (nnn : Addr12)
  /-- `2NNN` -/
  | callAddr (nnn : Addr12)
  /-- `3XNN` -/
  | seByte (x : Reg) (nn : Byte)
  /-- `4XNN` -/
  | sneByte (x : Reg) (nn : Byte)
  /-- `5XY0` -/
  | seReg (x y : Reg)
  /-- `6XNN` -/
  | ldByte (x : Reg) (nn : Byte)
  /-- `7XNN` -/
  | addByte (x : Reg) (nn : Byte)
  /-- `8XY0` -/
  | ldReg (x y : Reg)
  /-- `8XY1` -/
  | orReg (x y : Reg)
  /-- `8XY2` -/
  | andReg (x y : Reg)
  /-- `8XY3` -/
  | xorReg (x y : Reg)
  /-- `8XY4` -/
  | addReg (x y : Reg)
  /-- `8XY5` -/
  | subReg (x y : Reg)
  /-- `8XY6` -/
  | shr (x y : Reg)
  /-- `8XY7` -/
  | subnReg (x y : Reg)
  /-- `8XYE` -/
  | shl (x y : Reg)
  /-- `9XY0` -/
  | sneReg (x y : Reg)
  /-- `ANNN` -/
  | ldI (nnn : Addr12)
  /-- `BNNN` -/
  | jpV0 (nnn : Addr12)
  /-- `CXNN` -/
  | rnd (x : Reg) (nn : Byte)
  /-- `DXYN` -/
  | drw (x y : Reg) (n : Nibble)
  /-- `EX9E` -/
  | skp (x : Reg)
  /-- `EXA1` -/
  | sknp (x : Reg)
  /-- `FX07`: `LD Vx, DT` -/
  | ldVxDt (x : Reg)
  /-- `FX0A`: `LD Vx, K` -/
  | ldVxK (x : Reg)
  /-- `FX15`: `LD DT, Vx` -/
  | ldDtVx (x : Reg)
  /-- `FX18`: `LD ST, Vx` -/
  | ldStVx (x : Reg)
  /-- `FX1E`: `ADD I, Vx` -/
  | addI (x : Reg)
  /-- `FX29`: `LD F, Vx` -/
  | ldF (x : Reg)
  /-- `FX33`: `LD B, Vx` -/
  | ldB (x : Reg)
  /-- `FX55`: `LD [I], Vx` -/
  | ldMemVx (x : Reg)
  /-- `FX65`: `LD Vx, [I]` -/
  | ldVxMem (x : Reg)
deriving DecidableEq, Repr

end Sys2Proof
end

