-- ==== Sys2Proof/WellFormed.lean ====
section
/-! DEFINITION. Well-formedness. The operand types of `Instr` leave nothing to check on a term (R21, R94, R103), so the check
that can fail is on instruction WORDS: a word is legal iff it matches a row of the opcode table (R100, R105). The table is
written here from `match` and `mask`, independently of `Decode.lean`, which dispatches on fields (R95 to R99). -/

namespace Sys2Proof

/-- One row of the opcode map: a word `w` is the instruction iff `w &&& mask = bits` (R105). -/
structure Row where
  bits : Word
  mask : Word
deriving DecidableEq, Repr

def Row.matchesWord (r : Row) (w : Word) : Bool := w &&& r.mask == r.bits

/-- The row of the opcode table that an instruction stands in (R105). -/
def Instr.row : Instr → Row
  | .cls => ⟨0x00E0, 0xFFFF⟩
  | .ret => ⟨0x00EE, 0xFFFF⟩
  | .jpAddr _ => ⟨0x1000, 0xF000⟩
  | .callAddr _ => ⟨0x2000, 0xF000⟩
  | .seByte _ _ => ⟨0x3000, 0xF000⟩
  | .sneByte _ _ => ⟨0x4000, 0xF000⟩
  | .seReg _ _ => ⟨0x5000, 0xF00F⟩
  | .ldByte _ _ => ⟨0x6000, 0xF000⟩
  | .addByte _ _ => ⟨0x7000, 0xF000⟩
  | .ldReg _ _ => ⟨0x8000, 0xF00F⟩
  | .orReg _ _ => ⟨0x8001, 0xF00F⟩
  | .andReg _ _ => ⟨0x8002, 0xF00F⟩
  | .xorReg _ _ => ⟨0x8003, 0xF00F⟩
  | .addReg _ _ => ⟨0x8004, 0xF00F⟩
  | .subReg _ _ => ⟨0x8005, 0xF00F⟩
  | .shr _ _ => ⟨0x8006, 0xF00F⟩
  | .subnReg _ _ => ⟨0x8007, 0xF00F⟩
  | .shl _ _ => ⟨0x800E, 0xF00F⟩
  | .sneReg _ _ => ⟨0x9000, 0xF00F⟩
  | .ldI _ => ⟨0xA000, 0xF000⟩
  | .jpV0 _ => ⟨0xB000, 0xF000⟩
  | .rnd _ _ => ⟨0xC000, 0xF000⟩
  | .drw _ _ _ => ⟨0xD000, 0xF000⟩
  | .skp _ => ⟨0xE09E, 0xF0FF⟩
  | .sknp _ => ⟨0xE0A1, 0xF0FF⟩
  | .ldVxDt _ => ⟨0xF007, 0xF0FF⟩
  | .ldVxK _ => ⟨0xF00A, 0xF0FF⟩
  | .ldDtVx _ => ⟨0xF015, 0xF0FF⟩
  | .ldStVx _ => ⟨0xF018, 0xF0FF⟩
  | .addI _ => ⟨0xF01E, 0xF0FF⟩
  | .ldF _ => ⟨0xF029, 0xF0FF⟩
  | .ldB _ => ⟨0xF033, 0xF0FF⟩
  | .ldMemVx _ => ⟨0xF055, 0xF0FF⟩
  | .ldVxMem _ => ⟨0xF065, 0xF0FF⟩

/-- Rows of classes 0 to 7. -/
def rowsClass0to7 : List Row :=
  [⟨0x00E0, 0xFFFF⟩,
   ⟨0x00EE, 0xFFFF⟩,
   ⟨0x1000, 0xF000⟩,
   ⟨0x2000, 0xF000⟩,
   ⟨0x3000, 0xF000⟩,
   ⟨0x4000, 0xF000⟩,
   ⟨0x5000, 0xF00F⟩,
   ⟨0x6000, 0xF000⟩,
   ⟨0x7000, 0xF000⟩]

/-- Rows of classes 8 and 9. -/
def rowsClass8to9 : List Row :=
  [⟨0x8000, 0xF00F⟩,
   ⟨0x8001, 0xF00F⟩,
   ⟨0x8002, 0xF00F⟩,
   ⟨0x8003, 0xF00F⟩,
   ⟨0x8004, 0xF00F⟩,
   ⟨0x8005, 0xF00F⟩,
   ⟨0x8006, 0xF00F⟩,
   ⟨0x8007, 0xF00F⟩,
   ⟨0x800E, 0xF00F⟩,
   ⟨0x9000, 0xF00F⟩]

/-- Rows of classes A to F. -/
def rowsClassAtoF : List Row :=
  [⟨0xA000, 0xF000⟩,
   ⟨0xB000, 0xF000⟩,
   ⟨0xC000, 0xF000⟩,
   ⟨0xD000, 0xF000⟩,
   ⟨0xE09E, 0xF0FF⟩,
   ⟨0xE0A1, 0xF0FF⟩,
   ⟨0xF007, 0xF0FF⟩,
   ⟨0xF00A, 0xF0FF⟩,
   ⟨0xF015, 0xF0FF⟩,
   ⟨0xF018, 0xF0FF⟩,
   ⟨0xF01E, 0xF0FF⟩,
   ⟨0xF029, 0xF0FF⟩,
   ⟨0xF033, 0xF0FF⟩,
   ⟨0xF055, 0xF0FF⟩,
   ⟨0xF065, 0xF0FF⟩]

/-- The opcode map, 34 rows (R105). -/
def opcodeRows : List Row := rowsClass0to7 ++ rowsClass8to9 ++ rowsClassAtoF

/-- A word is an instruction iff some row matches it; every other word is `IllegalOpcode` (R100). -/
def legalWord (w : Word) : Bool := opcodeRows.any (·.matchesWord w)

end Sys2Proof
end

