-- ==== Sys2Proof/Decode.lean ====
section
/-! DEFINITION. The decoder (`30_encoding.md` R90 to R103), total on any bytes and rejecting by name, and the encoder, written
from the same formats (R93, R105). Decoding reads nothing but the word (R103). -/

namespace Sys2Proof

/-! ### Fields (R91) -/

def fieldOp (w : Word) : Nibble := w.extractLsb' 12 4
def fieldX (w : Word) : Reg := (w.extractLsb' 8 4).toFin
def fieldY (w : Word) : Reg := (w.extractLsb' 4 4).toFin
def fieldN (w : Word) : Nibble := w.extractLsb' 0 4
def fieldNN (w : Word) : Byte := w.extractLsb' 0 8
def fieldNNN (w : Word) : Addr12 := w.extractLsb' 0 12

/-- Why bytes are no instruction. Every reason but `truncated` is the spec's `IllegalOpcode` (R100, R225); `truncated` says that
fewer than two bytes were given, which a fetch never does (R121). -/
inductive Reject where
  /-- class 0 and neither `00E0` nor `00EE` (R95) -/
  | class0
  /-- class 5 with a low nibble that is not 0 (R98) -/
  | class5
  /-- class 8 with a sub-opcode outside 0 to 7 and E (R97) -/
  | class8
  /-- class 9 with a low nibble that is not 0 (R98) -/
  | class9
  /-- class E with a low byte that is neither `9E` nor `A1` (R99) -/
  | classE
  /-- class F with a low byte that is none of the nine (R99) -/
  | classF
  /-- fewer than two bytes -/
  | truncated
deriving DecidableEq, Repr

/-- Class 0: the whole word must match (R95). -/
def decodeClass0 (w : Word) : Except Reject Instr :=
  if w = 0x00E0 then .ok .cls
  else if w = 0x00EE then .ok .ret
  else .error .class0

/-- Class 8: dispatch on `N` (R97). -/
def decodeClass8 (x y : Reg) (n : Nibble) : Except Reject Instr :=
  match n.toNat with
  | 0x0 => .ok (.ldReg x y)
  | 0x1 => .ok (.orReg x y)
  | 0x2 => .ok (.andReg x y)
  | 0x3 => .ok (.xorReg x y)
  | 0x4 => .ok (.addReg x y)
  | 0x5 => .ok (.subReg x y)
  | 0x6 => .ok (.shr x y)
  | 0x7 => .ok (.subnReg x y)
  | 0xE => .ok (.shl x y)
  | _ => .error .class8

/-- Class E: dispatch on `NN` (R99). -/
def decodeClassE (x : Reg) (nn : Byte) : Except Reject Instr :=
  if nn = 0x9E then .ok (.skp x)
  else if nn = 0xA1 then .ok (.sknp x)
  else .error .classE

/-- Class F: dispatch on `NN` (R99). -/
def decodeClassF (x : Reg) (nn : Byte) : Except Reject Instr :=
  if nn = 0x07 then .ok (.ldVxDt x)
  else if nn = 0x0A then .ok (.ldVxK x)
  else if nn = 0x15 then .ok (.ldDtVx x)
  else if nn = 0x18 then .ok (.ldStVx x)
  else if nn = 0x1E then .ok (.addI x)
  else if nn = 0x29 then .ok (.ldF x)
  else if nn = 0x33 then .ok (.ldB x)
  else if nn = 0x55 then .ok (.ldMemVx x)
  else if nn = 0x65 then .ok (.ldVxMem x)
  else .error .classF

/-- The decoder: primary dispatch on `op` (R95, R96), secondary dispatch in classes 0, 8, E and F, and the low-nibble check of
classes 5 and 9 (R98). Every word is one instruction or is rejected by name (R100). -/
def decodeWord (w : Word) : Except Reject Instr :=
  match (fieldOp w).toNat with
  | 0x0 => decodeClass0 w
  | 0x1 => .ok (.jpAddr (fieldNNN w))
  | 0x2 => .ok (.callAddr (fieldNNN w))
  | 0x3 => .ok (.seByte (fieldX w) (fieldNN w))
  | 0x4 => .ok (.sneByte (fieldX w) (fieldNN w))
  | 0x5 => if fieldN w = 0 then .ok (.seReg (fieldX w) (fieldY w)) else .error .class5
  | 0x6 => .ok (.ldByte (fieldX w) (fieldNN w))
  | 0x7 => .ok (.addByte (fieldX w) (fieldNN w))
  | 0x8 => decodeClass8 (fieldX w) (fieldY w) (fieldN w)
  | 0x9 => if fieldN w = 0 then .ok (.sneReg (fieldX w) (fieldY w)) else .error .class9
  | 0xA => .ok (.ldI (fieldNNN w))
  | 0xB => .ok (.jpV0 (fieldNNN w))
  | 0xC => .ok (.rnd (fieldX w) (fieldNN w))
  | 0xD => .ok (.drw (fieldX w) (fieldY w) (fieldN w))
  | 0xE => decodeClassE (fieldX w) (fieldNN w)
  | _ => decodeClassF (fieldX w) (fieldNN w)   -- class F: the only value of `op` left

/-- Two bytes as a word, the first (lower address) high (R63, R90). -/
def wordOfBytes (hi lo : Byte) : Word := hi ++ lo

/-- A word as its two bytes in memory order, high byte first (R63, R90). -/
def bytesOfWord (w : Word) : List Byte := [w.extractLsb' 8 8, w.extractLsb' 0 8]

/-- The decoder on bytes: one instruction and the bytes after it. -/
def decodeBytes : List Byte → Except Reject (Instr × List Byte)
  | hi :: lo :: rest =>
    match decodeWord (wordOfBytes hi lo) with
    | .ok i => .ok (i, rest)
    | .error e => .error e
  | _ => .error .truncated

/-- The word that the host numbers `w`, of which `nbits` bits are given and every higher bit is 0. -/
def tableWord (nbits w : Nat) : Word := BitVec.ofNat 16 (w % 2 ^ nbits)

/-- The instruction the decoder reads from a table row's word laid out in memory order. -/
def decodeTableWord (nbits w : Nat) : Option Instr :=
  match decodeBytes (bytesOfWord (tableWord nbits w)) with
  | .ok (i, _) => some i
  | .error _ => none

/-! ### The encoder (R93, R105) -/

/-- Format `A`: `cNNN`. -/
def formatA (c : Nibble) (nnn : Addr12) : Word := c ++ nnn

/-- Format `XI`, and `XF` with its fixed low byte: `cXNN`. -/
def formatXI (c : Nibble) (x : Reg) (nn : Byte) : Word := c ++ (BitVec.ofFin x : Nibble) ++ nn

/-- Formats `XY` (fixed low nibble) and `XYN`: `cXYn`. -/
def formatXYN (c : Nibble) (x y : Reg) (n : Nibble) : Word :=
  c ++ (BitVec.ofFin x : Nibble) ++ (BitVec.ofFin y : Nibble) ++ n

/-- The word of an instruction (R105). -/
def encode : Instr → Word
  | .cls => 0x00E0
  | .ret => 0x00EE
  | .jpAddr nnn => formatA 0x1 nnn
  | .callAddr nnn => formatA 0x2 nnn
  | .seByte x nn => formatXI 0x3 x nn
  | .sneByte x nn => formatXI 0x4 x nn
  | .seReg x y => formatXYN 0x5 x y 0x0
  | .ldByte x nn => formatXI 0x6 x nn
  | .addByte x nn => formatXI 0x7 x nn
  | .ldReg x y => formatXYN 0x8 x y 0x0
  | .orReg x y => formatXYN 0x8 x y 0x1
  | .andReg x y => formatXYN 0x8 x y 0x2
  | .xorReg x y => formatXYN 0x8 x y 0x3
  | .addReg x y => formatXYN 0x8 x y 0x4
  | .subReg x y => formatXYN 0x8 x y 0x5
  | .shr x y => formatXYN 0x8 x y 0x6
  | .subnReg x y => formatXYN 0x8 x y 0x7
  | .shl x y => formatXYN 0x8 x y 0xE
  | .sneReg x y => formatXYN 0x9 x y 0x0
  | .ldI nnn => formatA 0xA nnn
  | .jpV0 nnn => formatA 0xB nnn
  | .rnd x nn => formatXI 0xC x nn
  | .drw x y n => formatXYN 0xD x y n
  | .skp x => formatXI 0xE x 0x9E
  | .sknp x => formatXI 0xE x 0xA1
  | .ldVxDt x => formatXI 0xF x 0x07
  | .ldVxK x => formatXI 0xF x 0x0A
  | .ldDtVx x => formatXI 0xF x 0x15
  | .ldStVx x => formatXI 0xF x 0x18
  | .addI x => formatXI 0xF x 0x1E
  | .ldF x => formatXI 0xF x 0x29
  | .ldB x => formatXI 0xF x 0x33
  | .ldMemVx x => formatXI 0xF x 0x55
  | .ldVxMem x => formatXI 0xF x 0x65

end Sys2Proof
end

