-- ==== Sys2Proof/Config.lean ====
section
/-! DEFINITION. The parameters of the hardware with the values it fixes (`00_scope.md` R6 to R12), and the one free value:
the byte the host supplies to each `RND` (R15, R241). -/

namespace Sys2Proof.Config

/-- `MEM_SIZE` (R6). -/
abbrev memSize : Nat := 4096

/-- `PROG_BASE` (R7): load address, reset value of `pc`, lowest legal `JP`/`CALL` target. -/
abbrev progBase : Nat := 0x200

/-- `PROG_CAPACITY` (R7). -/
abbrev progCapacity : Nat := memSize - progBase

/-- `GLYPH_BASE` (R8). -/
abbrev glyphBase : Nat := 0x050

/-- `GLYPH_COUNT` (R8). -/
abbrev glyphCount : Nat := 16

/-- `GLYPH_BYTES` (R8). -/
abbrev glyphBytes : Nat := 5

/-- `NREGS` (R9). -/
abbrev nRegs : Nat := 16

/-- `STACK_DEPTH` (R10). -/
abbrev stackDepth : Nat := 16

/-- `FB_W` (R11). UNVERIFIED (the spec takes it from general knowledge, D1); unsafe: `notes/assumptions/2.md`. -/
abbrev fbW : Nat := 64

/-- `FB_H` (R11). UNVERIFIED (the spec takes it from general knowledge, D1); unsafe: `notes/assumptions/2.md`. -/
abbrev fbH : Nat := 32

/-- `NKEYS` (R12). -/
abbrev nKeys : Nat := 16

/-- The byte `rnd` drawn by the `n`-th execution of `RND` (R15, R182, R241): a free value, any byte, with no relation between
draws (U6). No body, so nothing can be proved about its value. DESIGN CHOICE, safe: `notes/assumptions/1.md`. -/
opaque rndByte : Nat → Byte

end Sys2Proof.Config
end

