-- ==== Sys2Proof/Machine/State.lean ====
section
/-! DEFINITION. The state: exactly the fields of `10_state.md` R20, and one counter of the model's own (`draws`). The reset
values are the table of R42. -/

namespace Sys2Proof.Machine

open Sys2Proof.Config

/-- Main memory (R36, R60): the cells that differ from the contents after reset, addresses strictly rising. What an unlisted
address reads as is `Memory.background`; the form is `Memory.wf`. -/
abbrev Memory := List Host.Cell

/-- The framebuffer (R38): `FB_H` rows of `FB_W` one-bit cells, row 0 first, column 0 first; `true` is lit. -/
abbrev Framebuffer := Vector (Vector Bool fbW) fbH

/-- A cell of the framebuffer: column, then row. -/
abbrev Pixel := Fin fbW × Fin fbH

/-- The six fatal faults of the engine (R220), in the order of their codes (`FaultKind.code`, `Ops.lean`). -/
inductive FaultKind where
  /-- code 1: the fetch of a step with `pc` above 4094 (R221) -/
  | fetchOutOfBounds
  /-- code 2: `CALL` with 16 entries in use (R222) -/
  | stackOverflow
  /-- code 3: `RET` with no entry in use (R223) -/
  | stackUnderflow
  /-- code 4: `JP` or `CALL` to an address below `0x200` (R224) -/
  | illegalJumpTarget
  /-- code 5: a fetched word that is none of the 34 instructions (R225) -/
  | illegalOpcode
  /-- code 6: `DRW`, `LD B`, `LD [I]` or `LD Vx, [I]` with a data address above 4095 (R226) -/
  | dataOutOfBounds
deriving DecidableEq, Repr

/-- The fault record (R231): the kind (the host reads it as `FaultRecord.code`, `Ops.lean`), the address the offending instruction
was fetched from, and its word, which is absent
when the fetch itself failed. -/
structure FaultRecord where
  kind : FaultKind
  faultPc : Word
  faultWord : Option Word
deriving DecidableEq, Repr

/-- The outcome `fault` of a step. It has NO constructor: all six faults of the spec are entries the spec describes (R230 to
R233: the latch is set, the machine stays, Reset clears it), so each is a NEXT state, and no step ends in this outcome. Safe. -/
inductive Fault where
deriving DecidableEq, Repr

/-- The outcome `refused` of a step. -/
inductive Refusal where
  /-- An instruction with no meaning yet, raised by its arm of `exec` alone. No arm raises it: all 34 have their meaning. Safe. -/
  | notModelled (mnemonic : String)
deriving DecidableEq, Repr

structure State where
  /-- `V[0]` to `V[15]` (R21); `V[15]` is `VF` (R24) -/
  v : Vector Byte nRegs
  /-- `I`, the index register (R30) -/
  i : Word
  /-- `pc` (R26): between steps the address of the next fetch, during execute the fetch address plus 2 -/
  pc : Word
  /-- `sp` (R31): the number of call-stack entries in use, 0 to 16 -/
  sp : Fin (stackDepth + 1)
  /-- the call stack (R37), a space of its own; `stack[sp-1]` is the top -/
  stack : Vector Word stackDepth
  /-- main memory (R36) -/
  mem : Memory
  /-- the framebuffer (R38) -/
  fb : Framebuffer
  /-- `DT`, the delay timer (R32) -/
  dt : Byte
  /-- `ST`, the sound timer (R32) -/
  st : Byte
  /-- the keypad flags (R39); `true` is pressed -/
  key : Vector Bool nKeys
  /-- the redraw-request flag (R33) -/
  redraw : Bool
  /-- the fault latch (R34) -/
  fault : Option FaultRecord
  /-- the model's own: how many bytes `RND` has drawn (`notes/assumptions/1.md`) -/
  draws : Nat
deriving DecidableEq, Repr

/-- What one operation answers. No step answers `fault`; no step answers `refused`. -/
abbrev Outcome := Host.Outcome State Fault Refusal

/-- The machine right after `Reset` (R42, R260). The one value that is not the spec's is `draws` (DESIGN CHOICE,
`notes/assumptions/1.md`). -/
def State.reset : State where
  v := Vector.replicate nRegs 0
  i := 0
  pc := BitVec.ofNat 16 progBase
  sp := 0
  stack := Vector.replicate stackDepth 0
  mem := []
  fb := Vector.replicate fbH (Vector.replicate fbW false)
  dt := 0
  st := 0
  key := Vector.replicate nKeys false
  redraw := false
  fault := none
  draws := 0

end Sys2Proof.Machine
end

