-- ==== Sys2Proof/Machine/Ops.lean ====
section
/-! DEFINITION. The named operations over memory, registers, call stack and framebuffer, fetch and advance, and the ONE entry of
a fault (`60_exceptions.md` R230). There is no return from a fault (R233): nothing in the machine but `Reset` clears the latch. -/

namespace Sys2Proof.Machine

open Sys2Proof.Config

/-! ### Main memory -/

/-- `GLYPH_ROM` (R62), digits 0 to 7. UNVERIFIED (the spec takes it from general knowledge, D2); unsafe: `notes/assumptions/3.md`. -/
def glyphRomLow : List Byte :=
  [0xF0, 0x90, 0x90, 0x90, 0xF0,
   0x20, 0x60, 0x20, 0x20, 0x70,
   0xF0, 0x10, 0xF0, 0x80, 0xF0,
   0xF0, 0x10, 0xF0, 0x10, 0xF0,
   0x90, 0x90, 0xF0, 0x10, 0x10,
   0xF0, 0x80, 0xF0, 0x10, 0xF0,
   0xF0, 0x80, 0xF0, 0x90, 0xF0,
   0xF0, 0x10, 0x20, 0x40, 0x40]

/-- `GLYPH_ROM` (R62), digits 8 to F. -/
def glyphRomHigh : List Byte :=
  [0xF0, 0x90, 0xF0, 0x90, 0xF0,
   0xF0, 0x90, 0xF0, 0x10, 0xF0,
   0xF0, 0x90, 0xF0, 0x90, 0x90,
   0xE0, 0x90, 0xE0, 0x90, 0xE0,
   0xF0, 0x80, 0x80, 0x80, 0xF0,
   0xE0, 0x90, 0x90, 0x90, 0xE0,
   0xF0, 0x80, 0xF0, 0x80, 0xF0,
   0xF0, 0x80, 0xF0, 0x80, 0x80]

/-- The 80 bytes of the glyph set, five rows a digit, top row first (R62). -/
def glyphRom : List Byte := glyphRomLow ++ glyphRomHigh

/-- What an address that memory does not list reads as: its contents after reset (R36, R42, R61). -/
def Memory.background (a : Nat) : Byte :=
  if glyphBase ≤ a then glyphRom.getD (a - glyphBase) 0 else 0

/-- The one canonical form: addresses strictly rising, inside memory, and no cell equal to the background. -/
abbrev Memory.wf (m : Memory) : Prop :=
  m.Pairwise (fun c d => c.1 < d.1) ∧ ∀ c ∈ m, c.1 < memSize ∧ c.2 ≠ Memory.background c.1

/-- `MemRead(a, 1)` (R17, R64): the byte at `a`. The caller has checked `a` (R66, R67). -/
def Memory.read : Memory → Nat → Byte
  | [], a => Memory.background a
  | (k, b) :: m, a => if k = a then b else Memory.read m a

/-- Put a cell in front of the first one with a higher address. -/
def Memory.insert (a : Nat) (b : Byte) : Memory → Memory
  | [] => [(a, b)]
  | (k, c) :: m => if a < k then (a, b) :: (k, c) :: m else (k, c) :: Memory.insert a b m

/-- `MemWrite(a, 1, b)` (R17, R64). There is no protection (R68). The caller has checked `a` (R67). -/
def Memory.write (m : Memory) (a : Nat) (b : Byte) : Memory :=
  let others := m.filter (fun c => c.1 != a)
  if b = Memory.background a then others else Memory.insert a b others

/-- One-byte stores at ascending addresses from `a` (R64). -/
def Memory.storeBytes (m : Memory) (a : Nat) : List Byte → Memory
  | [] => m
  | b :: bs => Memory.storeBytes (m.write a b) (a + 1) bs

/-- One-byte reads at the `n` ascending addresses from `a` (R64). -/
def Memory.readBytes (m : Memory) (a : Nat) : Nat → List Byte
  | 0 => []
  | n + 1 => m.read a :: Memory.readBytes m (a + 1) n

/-! ### Registers and flags -/

/-- `V[x]` (R21). -/
def State.reg (s : State) (x : Reg) : Byte := s.v.get x

/-- `V[x] <- b` (R21). -/
def State.setReg (s : State) (x : Reg) (b : Byte) : State := { s with v := s.v.set x.val b x.isLt }

/-- The flag into `VF` first, the result into `V[x]` second, so that with `x = 15` the result stays (R165; UNVERIFIED, unsafe:
`notes/assumptions/6.md`). Both are computed from the operands before either write (R128). -/
def State.setFlagThenReg (s : State) (flag : Byte) (x : Reg) (b : Byte) : State := (s.setReg vf flag).setReg x b

/-- `V[0..x]`, inclusive, in ascending order (R208). -/
def State.regsUpTo (s : State) (x : Reg) : List Byte := s.v.toList.take (x.val + 1)

/-- `bs` into the registers from number `r` up, in ascending order (R209). -/
def writeRegs (v : Vector Byte nRegs) (r : Nat) : List Byte → Vector Byte nRegs
  | [] => v
  | b :: bs => writeRegs (v.setIfInBounds r b) (r + 1) bs

def State.setI (s : State) (a : Word) : State := { s with i := a }
def State.setPc (s : State) (a : Word) : State := { s with pc := a }
def State.setDt (s : State) (b : Byte) : State := { s with dt := b }
def State.setSt (s : State) (b : Byte) : State := { s with st := b }
def State.setMem (s : State) (m : Memory) : State := { s with mem := m }
def State.setRegs (s : State) (v : Vector Byte nRegs) : State := { s with v := v }
def State.countDraw (s : State) : State := { s with draws := s.draws + 1 }

/-- `skip` where the condition holds: pass over exactly one 2-byte instruction (R125). -/
def State.skipIf (s : State) (c : Bool) : State := if c then s.setPc (s.pc + 2) else s

/-! ### Call stack -/

/-- `Push(a)` (R17, R37): none where all 16 entries are in use (R70). -/
def State.push (s : State) (a : Word) : Option State :=
  if h : s.sp.val < stackDepth then
    some { s with stack := s.stack.set s.sp.val a h, sp := ⟨s.sp.val + 1, Nat.succ_lt_succ h⟩ }
  else none

/-- `Pop()` (R17, R37), into `pc` (R141): none where no entry is in use (R70). The popped entry keeps its value (R37). -/
def State.popPc (s : State) : Option State :=
  if h : 0 < s.sp.val then
    some { s with
      pc := s.stack[s.sp.val - 1]'(Nat.lt_of_lt_of_le (Nat.sub_lt h Nat.one_pos) (Nat.le_of_lt_succ s.sp.isLt)),
      sp := ⟨s.sp.val - 1, Nat.lt_of_le_of_lt (Nat.sub_le _ _) s.sp.isLt⟩ }
  else none

/-! ### Framebuffer -/

/-- `FbRead(x, y)` (R17, R38). -/
def Framebuffer.pixel (fb : Framebuffer) (p : Pixel) : Bool := (Vector.get fb p.2).get p.1

/-- `FbWrite(x, y, b)` (R17, R38). -/
def Framebuffer.setPixel (fb : Framebuffer) (p : Pixel) (b : Bool) : Framebuffer :=
  Vector.set fb p.2.val ((Vector.get fb p.2).set p.1.val b p.1.isLt) p.2.isLt

/-- Every cell unlit (R140). -/
def Framebuffer.blank : Framebuffer := Vector.replicate fbH (Vector.replicate fbW false)

/-- A new framebuffer with a redraw request (R33, R140, R185). -/
def State.drawFb (s : State) (fb : Framebuffer) : State := { s with fb := fb, redraw := true }

/-- The columns of a sprite row byte that are set: bit 7 is column 0, bit 0 column 7 (R186;
UNVERIFIED, the spec takes it from general knowledge, D4; unsafe: `notes/assumptions/5.md`). -/
def spriteColumns (b : Byte) : List Nat := [0, 1, 2, 3, 4, 5, 6, 7].filter (fun col => b.getLsbD (7 - col))

/-- The cell of sprite column `col` and row `row`, each coordinate wrapped by itself (R71, R185). -/
def spritePixel (x0 y0 col row : Nat) : Pixel := (Fin.ofNat fbW (x0 + col), Fin.ofNat fbH (y0 + row))

/-- The cells under the set bits of the row bytes `bs`, the first of which is row `row`, in the order of R185's loops. -/
def spritePixels (x0 y0 row : Nat) : List Byte → List Pixel
  | [] => []
  | b :: bs => (spriteColumns b).map (fun col => spritePixel x0 y0 col row) ++ spritePixels x0 y0 (row + 1) bs

/-- The loop body of R185 over a list of cells: a lit cell is a hit, and every cell is toggled. -/
def Framebuffer.toggle (fb : Framebuffer) (hit : Bool) : List Pixel → Framebuffer × Bool
  | [] => (fb, hit)
  | p :: ps => Framebuffer.toggle (fb.setPixel p (!fb.pixel p)) (hit || fb.pixel p) ps

/-! ### The step's phases 1 and 2, and faults -/

/-- `FAULT_CODES` (U2): the code of each kind (R16, R220). Labels that nothing in the machine reads. UNVERIFIED, safe:
`notes/assumptions/27.md`. -/
def FaultKind.code : FaultKind → Nat
  | .fetchOutOfBounds => 1
  | .stackOverflow => 2
  | .stackUnderflow => 3
  | .illegalJumpTarget => 4
  | .illegalOpcode => 5
  | .dataOutOfBounds => 6

/-- The kind of a code; no other number is a code (R220). -/
def FaultKind.ofCode : Nat → Option FaultKind
  | 1 => some .fetchOutOfBounds
  | 2 => some .stackOverflow
  | 3 => some .stackUnderflow
  | 4 => some .illegalJumpTarget
  | 5 => some .illegalOpcode
  | 6 => some .dataOutOfBounds
  | _ => none

/-- The `kind` of a record as the host reads it: the code (R231). -/
def FaultRecord.code (r : FaultRecord) : Nat := r.kind.code

/-- Phase 1 (R121): the big-endian word at `pc` (R63), or none where `pc` is above 4094 (R66). -/
def State.fetch (s : State) : Option Word :=
  if s.pc.toNat ≤ memSize - 2 then some (wordOfBytes (s.mem.read s.pc.toNat) (s.mem.read (s.pc.toNat + 1))) else none

/-- Phase 2 (R122): `pc` past the word, and `redraw` cleared. -/
def State.advance (s : State) : State := { s with pc := s.pc + 2, redraw := false }

/-- `raise k` (R230): the record into the latch; control goes nowhere. The one entry of every fault. -/
def State.raise (s : State) (k : FaultKind) (faultPc : Word) (faultWord : Option Word) : State :=
  { s with fault := some ⟨k, faultPc, faultWord⟩ }

/-- `raise k` in the execute phase of `i`: `pc` is then the fetch address plus 2 (R26), and the word fetched is `i`'s own
(R231; DEDUCED, safe: `notes/assumptions/8.md`). -/
def State.raiseIn (s : State) (k : FaultKind) (i : Instr) : State := s.raise k (s.pc - 2) (some (encode i))

/-- The fault of phase 1 (R121, R221): no word was fetched, and nothing but the latch changes (R232). -/
def State.raiseFetch (s : State) : State := s.raise .fetchOutOfBounds s.pc none

/-- The fault of phase 3 on the fetched word `w` (R123, R225), after phase 2 (R232); `s` is the state before the step. -/
def State.raiseIllegal (s : State) (w : Word) : State := s.advance.raise .illegalOpcode s.pc (some w)

end Sys2Proof.Machine
end

