-- ==== Sys2Proof/Machine/Operands.lean ====
section
/-! DEFINITION. Operand forms: immediates, jump targets, the data range from `I`, the glyph address, the key index and the
keypad scan (`30_encoding.md` R94, `20_memory.md` R67, `47_keypad.md`, `49_index_memory.md`). -/

namespace Sys2Proof.Machine

open Sys2Proof.Config

/-- A 12-bit address literal in a 16-bit register: zero-extended (R94). -/
def addrWord (nnn : Addr12) : Word := nnn.setWidth 16

/-- A register's value in 16-bit arithmetic: zero-extended (R181, R205). -/
def byteWord (b : Byte) : Word := b.setWidth 16

/-- The target check of `JP` and `CALL` (R142, R143): not below `0x200`, and inside memory (which 12 bits always are, D6). -/
def jumpTargetOk (nnn : Addr12) : Bool := decide (progBase ≤ nnn.toNat) && decide (nnn.toNat < memSize)

/-- The whole data range of `n` bytes from `base` lies in 0 to 4095, computed without wrap; no access when `n` is 0 (R67). -/
def dataRangeOk (base n : Nat) : Bool := n == 0 || decide (base + n - 1 ≤ memSize - 1)

/-- The address of the glyph of a value's low nibble (R206). -/
def glyphAddr (b : Byte) : Word := BitVec.ofNat 16 (glyphBase + (b &&& 0x0F).toNat * glyphBytes)

/-- The keypad index of a register's value: its low nibble (R71, R195). -/
def keyIndex (b : Byte) : Fin nKeys := Fin.ofNat nKeys (b &&& 0x0F).toNat

/-- `Key(k)` (R17, R39). -/
def State.keyDown (s : State) (k : Fin nKeys) : Bool := s.key.get k

/-- The scan of `LD Vx, K`: the first pressed key in index order 0 to 15 (R197). -/
def State.firstKey (s : State) : Option (Fin nKeys) :=
  [0, 1, 2, 3, 4, 5, 6, 7, 8, 9, 10, 11, 12, 13, 14, 15].find? (fun k => s.keyDown k)

/-- The three decimal digits of a byte, hundreds first (R207). -/
def bcdDigits (b : Byte) : List Byte :=
  [BitVec.ofNat 8 (b.toNat / 100), BitVec.ofNat 8 (b.toNat / 10 % 10), BitVec.ofNat 8 (b.toNat % 10)]

end Sys2Proof.Machine
end

