-- ==== Sys2Proof/Machine/Flags.lean ====
section
/-! DEFINITION. Every flag computation: what the six flag-producing instructions put into `VF`, always 0 or 1 in all 8 bits
(`10_state.md` R24, `44_alu.md` R165 to R175). -/

namespace Sys2Proof.Machine

/-- `b2n` (R17): 1 where the condition holds, else 0. -/
def b2n (c : Bool) : Byte := if c then 1 else 0

/-- `ADD`: 1 iff the sum exceeds 255 (R170). -/
def carryFlag (x y : Byte) : Byte := b2n (decide (x.toNat + y.toNat > 255))

/-- `SUB` and `SUBN`: 1 iff there is no borrow, that is minuend at least subtrahend (R171, R173, C3). -/
def noBorrowFlag (minuend subtrahend : Byte) : Byte := b2n (decide (minuend.toNat ≥ subtrahend.toNat))

/-- `SHR`: the bit shifted out to the right (R172). -/
def shrFlag (x : Byte) : Byte := b2n (x.getLsbD 0)

/-- `SHL`: the bit shifted out to the left (R174). -/
def shlFlag (x : Byte) : Byte := b2n (x.getLsbD 7)

end Sys2Proof.Machine
end

