-- ==== Sys2Proof/Machine/Alu.lean ====
section
/-! DEFINITION. Immediates and class 8 (`43_immediate.md` R160, R161, `44_alu.md` R165 to R175), and `RND`
(`45_index_jump_random.md` R182). All arithmetic is on unsigned bytes modulo 256 (R175), which is what `BitVec 8` computes. -/

namespace Sys2Proof.Machine

open Sys2Proof.Config

/-- `LD Vx, byte` (R160). -/
def execLdByte (x : Reg) (nn : Byte) (s : State) : Outcome := .next (s.setReg x nn)

/-- `ADD Vx, byte` (R161): wraps, no flag. -/
def execAddByte (x : Reg) (nn : Byte) (s : State) : Outcome := .next (s.setReg x (s.reg x + nn))

/-- `LD Vx, Vy` (R166). -/
def execLdReg (x y : Reg) (s : State) : Outcome := .next (s.setReg x (s.reg y))

/-- `OR Vx, Vy` (R167): no flag. -/
def execOrReg (x y : Reg) (s : State) : Outcome := .next (s.setReg x (s.reg x ||| s.reg y))

/-- `AND Vx, Vy` (R168): no flag. -/
def execAndReg (x y : Reg) (s : State) : Outcome := .next (s.setReg x (s.reg x &&& s.reg y))

/-- `XOR Vx, Vy` (R169): no flag. -/
def execXorReg (x y : Reg) (s : State) : Outcome := .next (s.setReg x (s.reg x ^^^ s.reg y))

/-- `ADD Vx, Vy` (R170). -/
def execAddReg (x y : Reg) (s : State) : Outcome :=
  .next (s.setFlagThenReg (carryFlag (s.reg x) (s.reg y)) x (s.reg x + s.reg y))

/-- `SUB Vx, Vy` (R171). -/
def execSubReg (x y : Reg) (s : State) : Outcome :=
  .next (s.setFlagThenReg (noBorrowFlag (s.reg x) (s.reg y)) x (s.reg x - s.reg y))

/-- `SHR Vx` (R172): `V[x]` in place; the field `Y` is ignored (R102). -/
def execShr (x _y : Reg) (s : State) : Outcome :=
  .next (s.setFlagThenReg (shrFlag (s.reg x)) x (s.reg x >>> 1))

/-- `SUBN Vx, Vy` (R173). -/
def execSubnReg (x y : Reg) (s : State) : Outcome :=
  .next (s.setFlagThenReg (noBorrowFlag (s.reg y) (s.reg x)) x (s.reg y - s.reg x))

/-- `SHL Vx` (R174): `V[x]` in place; the field `Y` is ignored (R102). -/
def execShl (x _y : Reg) (s : State) : Outcome :=
  .next (s.setFlagThenReg (shlFlag (s.reg x)) x (s.reg x <<< 1))

/-- `RND Vx, byte` (R182): a byte drawn afresh, masked. The byte is a free value (`notes/assumptions/1.md`). -/
def execRnd (x : Reg) (nn : Byte) (s : State) : Outcome :=
  .next ((s.setReg x (rndByte s.draws &&& nn)).countDraw)

end Sys2Proof.Machine
end

