-- ==== Sys2Proof/Machine/Flow.lean ====
section
/-! DEFINITION. Control flow: return, jumps, call, the skips, and wait-for-key (`41_screen_return_jump_call.md`, `42_skips.md`,
`45_index_jump_random.md` R181, `47_keypad.md`). Every meaning starts from the state after phase 2 (R124): `pc` is the fetch
address plus 2. -/

namespace Sys2Proof.Machine

/-- `RET` (R141). -/
def execRet (s : State) : Outcome :=
  match s.popPc with
  | some t => .next t
  | none => .next (s.raiseIn .stackUnderflow .ret)

/-- `JP addr` (R142). -/
def execJpAddr (nnn : Addr12) (s : State) : Outcome :=
  if jumpTargetOk nnn then .next (s.setPc (addrWord nnn))
  else .next (s.raiseIn .illegalJumpTarget (.jpAddr nnn))

/-- `CALL addr` (R143): the overflow check, then the target check, then the push of the advanced `pc` and the jump. -/
def execCallAddr (nnn : Addr12) (s : State) : Outcome :=
  match s.push s.pc with
  | none => .next (s.raiseIn .stackOverflow (.callAddr nnn))
  | some t =>
    if jumpTargetOk nnn then .next (t.setPc (addrWord nnn))
    else .next (s.raiseIn .illegalJumpTarget (.callAddr nnn))

/-- `SE Vx, byte` (R150). -/
def execSeByte (x : Reg) (nn : Byte) (s : State) : Outcome := .next (s.skipIf (s.reg x == nn))

/-- `SNE Vx, byte` (R151). -/
def execSneByte (x : Reg) (nn : Byte) (s : State) : Outcome := .next (s.skipIf (s.reg x != nn))

/-- `SE Vx, Vy` (R152). -/
def execSeReg (x y : Reg) (s : State) : Outcome := .next (s.skipIf (s.reg x == s.reg y))

/-- `SNE Vx, Vy` (R153). -/
def execSneReg (x y : Reg) (s : State) : Outcome := .next (s.skipIf (s.reg x != s.reg y))

/-- `JP V0, addr` (R181): no target check (D8), no wrap at 12 bits. UNVERIFIED, unsafe for a target below `0x200`:
`notes/assumptions/11.md`. -/
def execJpV0 (nnn : Addr12) (s : State) : Outcome := .next (s.setPc (addrWord nnn + byteWord (s.reg 0)))

/-- `SKP Vx` (R195). -/
def execSkp (x : Reg) (s : State) : Outcome := .next (s.skipIf (s.keyDown (keyIndex (s.reg x))))

/-- `SKNP Vx` (R196). -/
def execSknp (x : Reg) (s : State) : Outcome := .next (s.skipIf (!s.keyDown (keyIndex (s.reg x))))

/-- `LD Vx, K` (R197): the lowest pressed key, or `pc` back at this instruction. -/
def execLdVxK (x : Reg) (s : State) : Outcome :=
  match s.firstKey with
  | some k => .next (s.setReg x (BitVec.ofNat 8 k.val))
  | none => .next (s.setPc (s.pc - 2))

end Sys2Proof.Machine
end

