-- ==== Sys2Proof/Machine/Index.lean ====
section
/-! DEFINITION. The index register, the timers, and the transfers between registers and memory (`45_index_jump_random.md` R180,
`48_timers.md` R200 to R202, `49_index_memory.md` R205 to R209). No transfer changes `I` (R13), and every transfer checks its
whole range before its first access (R67, R129). -/

namespace Sys2Proof.Machine

/-- `LD I, addr` (R180). -/
def execLdI (nnn : Addr12) (s : State) : Outcome := .next (s.setI (addrWord nnn))

/-- `ADD I, Vx` (R205): modulo 65536, no flag. -/
def execAddI (x : Reg) (s : State) : Outcome := .next (s.setI (s.i + byteWord (s.reg x)))

/-- `LD F, Vx` (R206). -/
def execLdF (x : Reg) (s : State) : Outcome := .next (s.setI (glyphAddr (s.reg x)))

/-- `LD Vx, DT` (R200). -/
def execLdVxDt (x : Reg) (s : State) : Outcome := .next (s.setReg x s.dt)

/-- `LD DT, Vx` (R201). -/
def execLdDtVx (x : Reg) (s : State) : Outcome := .next (s.setDt (s.reg x))

/-- `LD ST, Vx` (R202). -/
def execLdStVx (x : Reg) (s : State) : Outcome := .next (s.setSt (s.reg x))

/-- `LD B, Vx` (R207): three digits from `I` up. -/
def execLdB (x : Reg) (s : State) : Outcome :=
  if dataRangeOk s.i.toNat 3 then .next (s.setMem (s.mem.storeBytes s.i.toNat (bcdDigits (s.reg x))))
  else .next (s.raiseIn .dataOutOfBounds (.ldB x))

/-- `LD [I], Vx` (R208): `V[0..x]` inclusive, from `I` up. -/
def execLdMemVx (x : Reg) (s : State) : Outcome :=
  if dataRangeOk s.i.toNat (x.val + 1) then .next (s.setMem (s.mem.storeBytes s.i.toNat (s.regsUpTo x)))
  else .next (s.raiseIn .dataOutOfBounds (.ldMemVx x))

/-- `LD Vx, [I]` (R209): `V[0..x]` inclusive, from `I` up. -/
def execLdVxMem (x : Reg) (s : State) : Outcome :=
  if dataRangeOk s.i.toNat (x.val + 1) then
    .next (s.setRegs (writeRegs s.v 0 (s.mem.readBytes s.i.toNat (x.val + 1))))
  else .next (s.raiseIn .dataOutOfBounds (.ldVxMem x))

end Sys2Proof.Machine
end

