-- ==== Sys2Proof/Machine/Screen.lean ====
section
/-! DEFINITION. `CLS` and `DRW` (`41_screen_return_jump_call.md` R140, `46_draw.md` R185 to R188). Every meaning starts from the
state after phase 2 of the step (R124). -/

namespace Sys2Proof.Machine

/-- `CLS` (R140). -/
def execCls (s : State) : Outcome := .next (s.drawFb Framebuffer.blank)

/-- The bytes that `DRW` with `n` rows reads, from `I` up (R185). -/
def State.spriteRows (s : State) (n : Nibble) : List Byte := s.mem.readBytes s.i.toNat n.toNat

/-- The cells under the set bits of the sprite of `DRW Vx, Vy, n`, left edge at `V[x]`, top edge at `V[y]` (R185, R186). -/
def State.spriteCells (s : State) (x y : Reg) (n : Nibble) : List Pixel :=
  spritePixels (s.reg x).toNat (s.reg y).toNat 0 (s.spriteRows n)

/-- `DRW Vx, Vy, nibble` (R185): the range check first, then the toggles, then `VF` and `redraw`, also when `n` is 0. -/
def execDrw (x y : Reg) (n : Nibble) (s : State) : Outcome :=
  if dataRangeOk s.i.toNat n.toNat then
    let r := s.fb.toggle false (s.spriteCells x y n)
    .next ((s.drawFb r.1).setReg vf (b2n r.2))
  else .next (s.raiseIn .dataOutOfBounds (.drw x y n))

end Sys2Proof.Machine
end

