-- ==== Sys2Proof/Machine/Step.lean ====
section
/-! DEFINITION. `Step` (`40_step_cycle.md` R120 to R124): fetch, advance, decode, execute. A fault is a next state with the latch
set (R230), and a faulted machine's step changes nothing (R233). -/

namespace Sys2Proof.Machine

open Sys2Proof.Config

def step (s : State) : Host.Outcome State Fault Refusal :=
  match s.fault with
  | some _ => .next s                                              -- R233
  | none =>
    match s.fetch with                                             -- phase 1, R121
    | none => .next s.raiseFetch
    | some w =>
      match decodeWord w with                                      -- phase 3, R123
      | .error _ => .next (s.raiseIllegal w)
      | .ok i => exec i s.advance                                  -- phases 2 and 4, R122, R124

/-- The state with a table row's word stored where the next step fetches. A step fetches only where `pc` is at most 4094 (R121)
and no fault is latched (R233): elsewhere `pc` becomes `0x200` and the latch is cleared, as Reset and Load do
(`notes/assumptions/15.md`). -/
def State.withFetchWord (s : State) (nbits w : Nat) : State :=
  let pc := if s.pc.toNat ≤ memSize - 2 then s.pc else BitVec.ofNat 16 progBase
  { s with pc := pc, fault := none, mem := s.mem.storeBytes pc.toNat (bytesOfWord (tableWord nbits w)) }

end Sys2Proof.Machine
end

