-- ==== Sys2Proof/Machine/HostOps.lean ====
section
/-! DEFINITION. The host's operations on the state (`60_exceptions.md` R236 to R246, `70_reset_and_hazards.md` R260 to R265).
Each is atomic (R73), cannot fail, and is legal in any state, a faulted one too (R233, D19, D20). -/

namespace Sys2Proof.Machine

open Sys2Proof.Config

/-- `Reset` (R260): every field of the aggregate to its reset value, whatever the state before (R261). The count of random draws
is not the engine's (R35) and goes on, so that the draws of a second run are not those of the first
(`notes/assumptions/17.md`). -/
def State.hostReset (s : State) : State := { State.reset with draws := s.draws }

/-- `Load` (R263): the image to `0x200` and up, truncated at 3584 bytes (R264); nothing else changes (R265). -/
def State.load (s : State) (image : List Byte) : State :=
  s.setMem (s.mem.storeBytes progBase (image.take progCapacity))

/-- One timer's count toward 0 (R236). -/
def countDown (b : Byte) : Byte := if b.toNat > 0 then b - 1 else b

/-- `Tick` (R236): both timers in one operation. -/
def State.tick (s : State) : State := (s.setDt (countDown s.dt)).setSt (countDown s.st)

/-- `KeyWrite(k, b)` (R238). -/
def State.keyWrite (s : State) (k : Fin nKeys) (b : Bool) : State := { s with key := s.key.set k.val b k.isLt }

/-- `FbRead` (R239): the whole framebuffer. -/
def State.fbRead (s : State) : Framebuffer := s.fb

/-- `RedrawRead` (R240): the flag, not cleared by being read. -/
def State.redrawRead (s : State) : Bool := s.redraw

/-- `FaultRead` (R242): the latch. -/
def State.faultRead (s : State) : Option FaultRecord := s.fault

/-- The code in what `FaultRead` returns (R231, R242); none where no fault is latched. -/
def State.faultCodeRead (s : State) : Option Nat := s.faultRead.map FaultRecord.code

end Sys2Proof.Machine
end

