-- ==== Sys2Proof/Machine/Schedule.lean ====
section
/-! DEFINITION. The whole machine: engine and host, one atomic operation after the other, in any order (R5, R73, R74). A claim
about runs ranges over every list of operations: nothing is assumed about the schedule (R279, D32). -/

namespace Sys2Proof.Machine

open Sys2Proof.Config

/-- An operation that changes state (R246). The three reads change nothing (R239, R240, R242) and are no moves. -/
inductive Op where
  | reset
  | load (image : List Byte)
  | step
  | tick
  | keyWrite (k : Fin nKeys) (b : Bool)
deriving DecidableEq, Repr

/-- One operation. -/
def applyOp (o : Op) (s : State) : Outcome :=
  match o with
  | .reset => .next s.hostReset
  | .load image => .next (s.load image)
  | .step => step s
  | .tick => .next s.tick
  | .keyWrite k b => .next (s.keyWrite k b)

/-- A schedule of operations, first one first. -/
def runOps : List Op → State → Outcome
  | [], s => .next s
  | o :: os, s =>
    match applyOp o s with
    | .next t => runOps os t
    | .fault r => .fault r
    | .refused r => .refused r

end Sys2Proof.Machine
end

