-- ==== Sys2Proof/Safety.lean ====
section
/-! DEFINITION. The terms claims are made in: a running machine, the invariant of every step, frames (what stays), and the spec's
own lists of which instructions do what. -/

namespace Sys2Proof.Machine

open Sys2Proof.Config

/-- No fault is latched: the next step fetches (R120, R233). -/
abbrev State.running (s : State) : Prop := s.fault = none

/-- What every operation keeps: memory in its canonical form (the model's own representation: DEDUCED, safe,
`notes/assumptions/16.md`), `pc` at most `0x10FE` (R29), and every call-stack entry at most 4096, the largest return address there
is (R141). -/
structure State.Inv (s : State) : Prop where
  memWf : s.mem.wf
  pcBound : s.pc.toNat ≤ 0x10FE
  stackBound : ∀ (j : Nat) (h : j < stackDepth), (s.stack[j]).toNat ≤ memSize

/-! ### Frames -/

/-- The fields of the state. -/
inductive Field where
  | v | i | pc | sp | stack | mem | fb | dt | st | key | redraw | fault | draws
deriving DecidableEq, Repr

/-- The field holds the same in both states; memory byte by byte. -/
def Field.same (s t : State) : Field → Prop
  | .v => t.v = s.v
  | .i => t.i = s.i
  | .pc => t.pc = s.pc
  | .sp => t.sp = s.sp
  | .stack => t.stack = s.stack
  | .mem => ∀ a, t.mem.read a = s.mem.read a
  | .fb => t.fb = s.fb
  | .dt => t.dt = s.dt
  | .st => t.st = s.st
  | .key => t.key = s.key
  | .redraw => t.redraw = s.redraw
  | .fault => t.fault = s.fault
  | .draws => t.draws = s.draws

/-- Every field but those listed is unchanged from `s` to `t`. -/
def UnchangedBut (fs : List Field) (s t : State) : Prop := ∀ f, f ∉ fs → Field.same s t f

/-- Every general register but those listed is unchanged from `s` to `t`. -/
def RegsUnchangedBut (xs : List Reg) (s t : State) : Prop := ∀ r, r ∉ xs → t.reg r = s.reg r

/-- The meaning of `i` at `s` is to raise a fault of kind `k` and to change nothing else (R129, R230, R232). -/
def Raises (i : Instr) (s : State) (k : FaultKind) : Prop :=
  ∃ t, exec i s = .next t ∧ (∃ a w, t.fault = some ⟨k, a, w⟩) ∧ UnchangedBut [.fault] s t

/-- The meaning of `i` at `s` is to pass over the next word exactly where `c` holds, and nothing else (R125). -/
def SkipsWhen (i : Instr) (s : State) (c : Prop) : Prop :=
  ∃ t, exec i s = .next t ∧ (c → t.pc = s.pc + 2) ∧ (¬c → t.pc = s.pc) ∧ UnchangedBut [.pc] s t

/-- The meaning of `i` at `s` is to write `b` into `V[x]`, and nothing else. -/
def SetsReg (i : Instr) (s : State) (x : Reg) (b : Byte) : Prop :=
  ∃ t, exec i s = .next t ∧ t.reg x = b ∧ RegsUnchangedBut [x] s t ∧ UnchangedBut [.v] s t

/-- The meaning of `i` at `s` is to write `flag` into `VF` and then `result` into `V[x]`, and nothing else: with `x = 15` the
result is what `VF` ends holding (R165; that case is the spec's decision D11, log entry 6). -/
def SetsFlagThenReg (i : Instr) (s : State) (x : Reg) (result flag : Nat) : Prop :=
  ∃ t, exec i s = .next t ∧ (t.reg x).toNat = result ∧ (x ≠ vf → (t.reg vf).toNat = flag) ∧
    RegsUnchangedBut [x, vf] s t ∧ UnchangedBut [.v] s t

/-- The sprite of `DRW Vx, Vy, n` has a set bit over the cell `p`: some row below `n` and some column below 8, with the bit
`7 - column` of that row's byte set, land on `p` after wrapping (R185, R186). -/
def SpriteCovers (s : State) (x y : Reg) (n : Nibble) (p : Pixel) : Prop :=
  ∃ row col : Nat, row < n.toNat ∧ col < 8 ∧ (s.mem.read (s.i.toNat + row)).getLsbD (7 - col) = true ∧
    p.1.val = ((s.reg x).toNat + col) % fbW ∧ p.2.val = ((s.reg y).toNat + row) % fbH

end Sys2Proof.Machine

namespace Sys2Proof

open Sys2Proof.Machine

/-! ### The spec's lists -/

/-- The fields the execute phase of an instruction writes where it does not fault (R27, R40). The model's own `draws` goes with
`RND`. -/
def Instr.writes : Instr → List Field
  | .cls => [.fb, .redraw]
  | .ret => [.pc, .sp]
  | .jpAddr _ => [.pc]
  | .callAddr _ => [.pc, .sp, .stack]
  | .seByte _ _ => [.pc]
  | .sneByte _ _ => [.pc]
  | .seReg _ _ => [.pc]
  | .sneReg _ _ => [.pc]
  | .ldI _ => [.i]
  | .jpV0 _ => [.pc]
  | .rnd _ _ => [.v, .draws]
  | .drw _ _ _ => [.v, .fb, .redraw]
  | .skp _ => [.pc]
  | .sknp _ => [.pc]
  | .ldVxK _ => [.v, .pc]
  | .ldDtVx _ => [.dt]
  | .ldStVx _ => [.st]
  | .addI _ => [.i]
  | .ldF _ => [.i]
  | .ldB _ => [.mem]
  | .ldMemVx _ => [.mem]
  | .ldByte _ _ => [.v]
  | .addByte _ _ => [.v]
  | .ldReg _ _ => [.v]
  | .orReg _ _ => [.v]
  | .andReg _ _ => [.v]
  | .xorReg _ _ => [.v]
  | .addReg _ _ => [.v]
  | .subReg _ _ => [.v]
  | .shr _ _ => [.v]
  | .subnReg _ _ => [.v]
  | .shl _ _ => [.v]
  | .ldVxDt _ => [.v]
  | .ldVxMem _ => [.v]

/-- The six conditional skips (R27, `42_skips.md`, `47_keypad.md`). -/
def Instr.isSkip : Instr → Bool
  | .seByte _ _ => true
  | .sneByte _ _ => true
  | .seReg _ _ => true
  | .sneReg _ _ => true
  | .skp _ => true
  | .sknp _ => true
  | _ => false

/-- The faults an instruction can raise in execute: the complete list of R228. -/
def Instr.faults : Instr → List FaultKind
  | .ret => [.stackUnderflow]
  | .jpAddr _ => [.illegalJumpTarget]
  | .callAddr _ => [.stackOverflow, .illegalJumpTarget]
  | .drw _ _ _ => [.dataOutOfBounds]
  | .ldB _ => [.dataOutOfBounds]
  | .ldMemVx _ => [.dataOutOfBounds]
  | .ldVxMem _ => [.dataOutOfBounds]
  | _ => []

/-- The six instructions that write `VF` as a side effect (R24). -/
def Instr.writesFlag : Instr → Bool
  | .addReg _ _ => true
  | .subReg _ _ => true
  | .subnReg _ _ => true
  | .shr _ _ => true
  | .shl _ _ => true
  | .drw _ _ _ => true
  | _ => false

/-- The registers an instruction names as its destination, as its own rule says (R22): `V[x]`, or `V[0..x]` for `LD Vx, [I]`. -/
def Instr.destRegs : Instr → List Reg
  | .ldByte x _ => [x]
  | .addByte x _ => [x]
  | .ldReg x _ => [x]
  | .orReg x _ => [x]
  | .andReg x _ => [x]
  | .xorReg x _ => [x]
  | .addReg x _ => [x]
  | .subReg x _ => [x]
  | .shr x _ => [x]
  | .subnReg x _ => [x]
  | .shl x _ => [x]
  | .rnd x _ => [x]
  | .ldVxDt x => [x]
  | .ldVxK x => [x]
  | .ldVxMem x => [0, 1, 2, 3, 4, 5, 6, 7, 8, 9, 10, 11, 12, 13, 14, 15].filter (fun r : Reg => r.val ≤ x.val)
  | _ => []

/-- `CLS` and `DRW`: the instructions that request a redraw (R33). -/
def Instr.requestsRedraw : Instr → Bool
  | .cls => true
  | .drw _ _ _ => true
  | _ => false

/-- `RND`, the one instruction that uses the random byte (R241). -/
def Instr.usesRandom : Instr → Bool
  | .rnd _ _ => true
  | _ => false

end Sys2Proof
end

