-- ==== Sys2Proof/Certificates/Slice0/Obligations.lean ====
section
/-! DEFINITION. The statements for the provers. `exec i s` is phase 4 of a step: `s` is the state after phase 2, so its `pc` is the
fetch address plus 2 (`40_step_cycle.md` R124). Frames are `UnchangedBut` and `RegsUnchangedBut` (Safety.lean); a statement that
says nothing of a hypothesis holds in every state, a faulted one and one no run reaches too. -/

open Sys2Proof Sys2Proof.Config Sys2Proof.Machine

/-! ### Screen and control flow -/

/-- R140: every cell unlit, `redraw` set, nothing else changed; the word is `0x00E0`. -/
def Obligations.ClsBlanksScreenAndRequestsRedraw : Prop :=
  encode .cls = 0x00E0 ∧ decodeWord 0x00E0 = .ok .cls ∧
  ∀ s : State, ∃ t, exec .cls s = .next t ∧ (∀ p, t.fb.pixel p = false) ∧ t.redraw = true ∧
    UnchangedBut [.fb, .redraw] s t

/-- R141: with an entry in use, the top of the call stack goes into `pc` and `sp` goes down by one; with none, `StackUnderflow`
and nothing else; the word is `0x00EE`
The numbers are the spec's decision D3 (log entry 4). -/
def Obligations.RetPopsIntoPcOrUnderflows : Prop :=
  encode .ret = 0x00EE ∧ decodeWord 0x00EE = .ok .ret ∧
  ∀ s : State,
    (0 < s.sp.val → ∃ t, exec .ret s = .next t ∧ s.stack[s.sp.val - 1]? = some t.pc ∧ t.sp.val = s.sp.val - 1 ∧
      UnchangedBut [.pc, .sp] s t) ∧
    (s.sp.val = 0 → Raises .ret s .stackUnderflow)

/-- R142: a target of `0x200` or more goes into `pc`, one below raises `IllegalJumpTarget`. That `0xFFF` is a legal target is the
spec's decision D6 (log entry 12). -/
def Obligations.JpSetsPcOrRejectsTarget : Prop :=
  ∀ (nnn : Addr12) (s : State),
    (0x200 ≤ nnn.toNat → ∃ t, exec (.jpAddr nnn) s = .next t ∧ t.pc.toNat = nnn.toNat ∧ UnchangedBut [.pc] s t) ∧
    (nnn.toNat < 0x200 → Raises (.jpAddr nnn) s .illegalJumpTarget)

/-- R143: the advanced `pc` is pushed and `pc` becomes the target; a full stack raises `StackOverflow`, whatever the target; else a
target below `0x200` raises `IllegalJumpTarget`. The target check and the order are the spec's decision D7 (log entry 12). -/
def Obligations.CallPushesReturnAddressAndJumps : Prop :=
  ∀ (nnn : Addr12) (s : State),
    (s.sp.val < 16 → 0x200 ≤ nnn.toNat → ∃ t, exec (.callAddr nnn) s = .next t ∧ t.pc.toNat = nnn.toNat ∧
      t.sp.val = s.sp.val + 1 ∧ t.stack[s.sp.val]? = some s.pc ∧ (∀ j : Nat, j ≠ s.sp.val → t.stack[j]? = s.stack[j]?) ∧
      UnchangedBut [.pc, .sp, .stack] s t) ∧
    (s.sp.val = 16 → Raises (.callAddr nnn) s .stackOverflow) ∧
    (s.sp.val < 16 → nnn.toNat < 0x200 → Raises (.callAddr nnn) s .illegalJumpTarget)

/-- The source's round-trip property (R143): a call and then a return leave `pc` at the instruction after the call and the depth as
it was. Between the two, `pc` and `redraw` may be anything, since the steps advance them. -/
def Obligations.CallThenRetReturns : Prop :=
  ∀ (nnn : Addr12) (s t u : State) (a : Word) (b : Bool),
    s.sp.val < 16 → 0x200 ≤ nnn.toNat → exec (.callAddr nnn) s = .next t →
    exec .ret { t with pc := a, redraw := b } = .next u →
    u.pc = s.pc ∧ u.sp = s.sp ∧ u.fault = s.fault ∧ UnchangedBut [.pc, .stack, .redraw] s u

/-- R150, R151: the skip against an immediate passes over one word exactly when equal, or exactly when different; the words are
`3XNN` and `4XNN`
The numbers are the spec's decision D3 (log entry 4). -/
def Obligations.ImmediateSkipsFollowComparison : Prop :=
  ∀ (x : Reg) (nn : Byte),
    decodeWord (formatXI 0x3 x nn) = .ok (.seByte x nn) ∧ decodeWord (formatXI 0x4 x nn) = .ok (.sneByte x nn) ∧
    ∀ s : State, SkipsWhen (.seByte x nn) s (s.reg x = nn) ∧ SkipsWhen (.sneByte x nn) s (s.reg x ≠ nn)

/-- R152, R153: the skip against a register likewise; the words are `5XY0` and `9XY0`, and with a low nibble that is not 0 they
are no instruction
The numbers are the spec's decision D3 (log entry 4). -/
def Obligations.RegisterSkipsFollowComparison : Prop :=
  (∀ x y : Reg, decodeWord (formatXYN 0x5 x y 0) = .ok (.seReg x y) ∧ decodeWord (formatXYN 0x9 x y 0) = .ok (.sneReg x y)) ∧
  (∀ (x y : Reg) (s : State),
    SkipsWhen (.seReg x y) s (s.reg x = s.reg y) ∧ SkipsWhen (.sneReg x y) s (s.reg x ≠ s.reg y)) ∧
  ∀ (x y : Reg) (n : Nibble), n ≠ 0 →
    (∃ e, decodeWord (formatXYN 0x5 x y n) = .error e) ∧ ∃ e, decodeWord (formatXYN 0x9 x y n) = .error e

/-- R181: `pc` becomes `V[0]` plus the 12-bit literal, with no wrap and no target check. The missing check is the spec's decision
D8 (log entry 11). -/
def Obligations.JpV0AddsRegisterZero : Prop :=
  ∀ (nnn : Addr12) (s : State), ∃ t, exec (.jpV0 nnn) s = .next t ∧
    t.pc.toNat = nnn.toNat + (s.reg 0).toNat ∧ UnchangedBut [.pc] s t

/-- R195, R196: the key skips test the key numbered by the low nibble of `V[x]`; the words are `EX9E` and `EXA1`
The numbers are the spec's decision D3 (log entry 4). -/
def Obligations.KeySkipsFollowKeypad : Prop :=
  ∀ x : Reg, decodeWord (formatXI 0xE x 0x9E) = .ok (.skp x) ∧ decodeWord (formatXI 0xE x 0xA1) = .ok (.sknp x) ∧
  ∀ s : State,
    SkipsWhen (.skp x) s (s.key[(s.reg x).toNat % 16]? = some true) ∧
    SkipsWhen (.sknp x) s (s.key[(s.reg x).toNat % 16]? = some false)

/-- R197: with a key pressed, the lowest pressed index goes into `V[x]`; with none, `pc` goes back by 2 and nothing else changes.
That the scan takes levels is the spec's decision D27 (log entry 22). -/
def Obligations.WaitForKeyTakesLowestOrWaits : Prop :=
  ∀ (x : Reg) (s : State),
    (∀ k : Fin nKeys, s.keyDown k = true → (∀ j, j < k → s.keyDown j = false) →
      SetsReg (.ldVxK x) s x (BitVec.ofNat 8 k.val)) ∧
    ((∀ k, s.keyDown k = false) → ∃ t, exec (.ldVxK x) s = .next t ∧ t.pc = s.pc - 2 ∧ UnchangedBut [.pc] s t)

/-! ### Registers -/

/-- R160: `V[x]` is the immediate; the word is `6XNN`. -/
def Obligations.LdByteLoadsImmediate : Prop :=
  ∀ (x : Reg) (nn : Byte), decodeWord (formatXI 0x6 x nn) = .ok (.ldByte x nn) ∧
    ∀ s : State, SetsReg (.ldByte x nn) s x nn

/-- R161: the sum modulo 256 into `V[x]`, `VF` not written unless it is `V[x]`. That no flag is written is the spec's decision D12
(log entry 13). -/
def Obligations.AddByteWrapsWithoutFlag : Prop :=
  ∀ (x : Reg) (nn : Byte) (s : State), ∃ b : Byte, b.toNat = ((s.reg x).toNat + nn.toNat) % 256 ∧
    SetsReg (.addByte x nn) s x b

/-- R166: `V[x]` is `V[y]`; the word is `8XY0`
The numbers are the spec's decision D3 (log entry 4). -/
def Obligations.LdRegCopies : Prop :=
  ∀ x y : Reg, decodeWord (formatXYN 0x8 x y 0x0) = .ok (.ldReg x y) ∧
    ∀ s : State, SetsReg (.ldReg x y) s x (s.reg y)

/-- R167 to R169: bitwise OR, AND, XOR into `V[x]`, `VF` not written unless it is `V[x]`. That no flag is written is the spec's
decision D12 (log entry 13). -/
def Obligations.LogicCombinesBitsWithoutFlag : Prop :=
  ∀ (x y : Reg) (s : State) (o a e : Byte),
    (∀ k, k < 8 → o.getLsbD k = ((s.reg x).getLsbD k || (s.reg y).getLsbD k)) →
    (∀ k, k < 8 → a.getLsbD k = ((s.reg x).getLsbD k && (s.reg y).getLsbD k)) →
    (∀ k, k < 8 → e.getLsbD k = ((s.reg x).getLsbD k ^^ (s.reg y).getLsbD k)) →
    SetsReg (.orReg x y) s x o ∧ SetsReg (.andReg x y) s x a ∧ SetsReg (.xorReg x y) s x e

/-- R170, R175: the sum modulo 256, and the flag 1 iff the sum exceeds 255. -/
def Obligations.AddRegSumAndCarry : Prop :=
  ∀ (x y : Reg) (s : State), SetsFlagThenReg (.addReg x y) s x (((s.reg x).toNat + (s.reg y).toNat) % 256)
    (if 255 < (s.reg x).toNat + (s.reg y).toNat then 1 else 0)

/-- R171, R173, R175: the difference modulo 256, and the flag 1 iff there is no borrow; the reversed form swaps the operands. -/
def Obligations.SubtractDifferenceAndNoBorrow : Prop :=
  ∀ (x y : Reg) (s : State) (a b : Nat), a = (s.reg x).toNat → b = (s.reg y).toNat →
    SetsFlagThenReg (.subReg x y) s x (if b ≤ a then a - b else a + 256 - b) (if b ≤ a then 1 else 0) ∧
    SetsFlagThenReg (.subnReg x y) s x (if a ≤ b then b - a else b + 256 - a) (if a ≤ b then 1 else 0)

/-- R172, R174, R102: `V[x]` shifted by one in place, the flag the bit shifted out, whatever the field `Y`. -/
def Obligations.ShiftsInPlaceIgnoringY : Prop :=
  ∀ (x y : Reg) (s : State),
    SetsFlagThenReg (.shr x y) s x ((s.reg x).toNat / 2) ((s.reg x).toNat % 2) ∧
    SetsFlagThenReg (.shl x y) s x ((s.reg x).toNat * 2 % 256) ((s.reg x).toNat / 128) ∧
    ∀ y', exec (.shr x y') s = exec (.shr x y) s ∧ exec (.shl x y') s = exec (.shl x y) s

/-- R182: the free byte of this draw masked by the immediate, so every bit the immediate leaves out is 0; the next draw is another
one. Holds for every value of the free byte; `draws` is the model's own field (log entry 1). -/
def Obligations.RndMasksFreshByte : Prop :=
  ∀ (x : Reg) (nn : Byte) (s : State), ∃ t, exec (.rnd x nn) s = .next t ∧
    t.reg x = rndByte s.draws &&& nn ∧ (∀ k, nn.getLsbD k = false → (t.reg x).getLsbD k = false) ∧
    t.draws = s.draws + 1 ∧ RegsUnchangedBut [x] s t ∧ UnchangedBut [.v, .draws] s t

/-! ### Index register and timers -/

/-- R180: `I` is the literal, zero-extended; the word is `ANNN`. -/
def Obligations.LdILoadsAddress : Prop :=
  ∀ nnn : Addr12, decodeWord (formatA 0xA nnn) = .ok (.ldI nnn) ∧
    ∀ s : State, ∃ t, exec (.ldI nnn) s = .next t ∧ t.i.toNat = nnn.toNat ∧ UnchangedBut [.i] s t

/-- R205: `I` plus `V[x]` modulo 65536, no flag. The wrap and the flag are the spec's decisions D13 and D12 (log entries 20, 13). -/
def Obligations.AddIWrapsWithoutFlag : Prop :=
  ∀ (x : Reg) (s : State), ∃ t, exec (.addI x) s = .next t ∧
    t.i.toNat = (s.i.toNat + (s.reg x).toNat) % 65536 ∧ UnchangedBut [.i] s t

/-- R206: `I` is the address of the glyph of the low nibble of `V[x]`; the word is `FX29`
The numbers are the spec's decision D3 (log entry 4). -/
def Obligations.LdFLoadsGlyphAddress : Prop :=
  ∀ x : Reg, decodeWord (formatXI 0xF x 0x29) = .ok (.ldF x) ∧ ∀ s : State, ∃ t, exec (.ldF x) s = .next t ∧
    t.i.toNat = 0x050 + (s.reg x).toNat % 16 * 5 ∧ UnchangedBut [.i] s t

/-- R200 to R202: a byte between a register and a timer, no timer counted; the words are `FX07`, `FX15`, `FX18`
The numbers are the spec's decision D3 (log entry 4). -/
def Obligations.TimerMovesCopyOneByte : Prop :=
  ∀ x : Reg, decodeWord (formatXI 0xF x 0x07) = .ok (.ldVxDt x) ∧ decodeWord (formatXI 0xF x 0x15) = .ok (.ldDtVx x) ∧
    decodeWord (formatXI 0xF x 0x18) = .ok (.ldStVx x) ∧ ∀ s : State, SetsReg (.ldVxDt x) s x s.dt ∧
    (∃ t, exec (.ldDtVx x) s = .next t ∧ t.dt = s.reg x ∧ UnchangedBut [.dt] s t) ∧
    ∃ t, exec (.ldStVx x) s = .next t ∧ t.st = s.reg x ∧ UnchangedBut [.st] s t

/-! ### Memory transfers -/

/-- R207: three decimal digits from `I` up, every other byte as before. -/
def Obligations.LdBStoresDecimalDigits : Prop :=
  ∀ (x : Reg) (s : State), s.i.toNat + 2 ≤ 4095 → ∃ t, exec (.ldB x) s = .next t ∧
    (t.mem.read s.i.toNat).toNat = (s.reg x).toNat / 100 ∧
    (t.mem.read (s.i.toNat + 1)).toNat = (s.reg x).toNat / 10 % 10 ∧
    (t.mem.read (s.i.toNat + 2)).toNat = (s.reg x).toNat % 10 ∧
    (∀ a, a < s.i.toNat ∨ s.i.toNat + 2 < a → t.mem.read a = s.mem.read a) ∧ UnchangedBut [.mem] s t

/-- R208: `V[0..x]` inclusive from `I` up, every other byte as before, `I` not advanced. -/
def Obligations.StoreRegsWritesInclusiveRange : Prop :=
  ∀ (x : Reg) (s : State), s.i.toNat + x.val ≤ 4095 → ∃ t, exec (.ldMemVx x) s = .next t ∧
    (∀ k : Reg, k ≤ x → t.mem.read (s.i.toNat + k.val) = s.reg k) ∧
    (∀ a, a < s.i.toNat ∨ s.i.toNat + x.val < a → t.mem.read a = s.mem.read a) ∧ UnchangedBut [.mem] s t

/-- R209: `V[0..x]` inclusive from `I` up, registers above `x` as before, memory and `I` unchanged. -/
def Obligations.LoadRegsReadsInclusiveRange : Prop :=
  ∀ (x : Reg) (s : State), s.i.toNat + x.val ≤ 4095 → ∃ t, exec (.ldVxMem x) s = .next t ∧
    (∀ k : Reg, k ≤ x → t.reg k = s.mem.read (s.i.toNat + k.val)) ∧
    (∀ k : Reg, x < k → t.reg k = s.reg k) ∧ UnchangedBut [.v] s t

/-- R209, corner case: a store and then a load with the same `x` and `I`, memory untouched between, restores the registers that
were stored, whatever the registers held before the load. -/
def Obligations.LoadRegsRestoresStoredRegs : Prop :=
  ∀ (x : Reg) (s t u w : State), s.i.toNat + x.val ≤ 4095 → exec (.ldMemVx x) s = .next t →
    u.mem = t.mem → u.i = s.i → exec (.ldVxMem x) u = .next w → ∀ k : Reg, k ≤ x → w.reg k = s.reg k

/-- R67, R226: a data range that leaves 0 to 4095 raises `DataOutOfBounds`, and the instruction makes none of its writes. The fault
is the spec's decision D9 (log entry 9). -/
def Obligations.DataOutsideMemoryFaults : Prop :=
  ∀ s : State,
    (∀ (x y : Reg) (n : Nibble), 0 < n.toNat → 4095 < s.i.toNat + n.toNat - 1 → Raises (.drw x y n) s .dataOutOfBounds) ∧
    (∀ x, 4095 < s.i.toNat + 2 → Raises (.ldB x) s .dataOutOfBounds) ∧
    (∀ x, 4095 < s.i.toNat + x.val → Raises (.ldMemVx x) s .dataOutOfBounds) ∧
    ∀ x, 4095 < s.i.toNat + x.val → Raises (.ldVxMem x) s .dataOutOfBounds

/-- R77: two bytes stored by `LD [I], Vx` are the word fetched at `I` from then on. This is the spec's decision D29 (log entry 19). -/
def Obligations.StoredBytesAreFetched : Prop :=
  ∀ (x : Reg) (s t : State), 1 ≤ x.val → s.i.toNat + x.val ≤ 4095 → exec (.ldMemVx x) s = .next t →
    { t with pc := s.i }.fetch = some (wordOfBytes (s.reg 0) (s.reg 1))

/-! ### Sprites -/

/-- R185, R186: with the rows inside memory (or none), every cell under a set sprite bit is inverted and no other; `VF` is 1 iff one
of them was lit; `redraw` is set; nothing else changes. Size, bit order and the fault are the spec's decisions D1, D4, D9, and that
`x` or `y` may be 15 its D11 (log entries 2, 5, 9, 6). -/
def Obligations.DrwInvertsCoveredCells : Prop :=
  ∀ (x y : Reg) (n : Nibble) (s : State), n = 0 ∨ s.i.toNat + n.toNat ≤ 4096 →
    ∃ t, exec (.drw x y n) s = .next t ∧
      (∀ p, SpriteCovers s x y n p → t.fb.pixel p = !s.fb.pixel p) ∧
      (∀ p, ¬SpriteCovers s x y n p → t.fb.pixel p = s.fb.pixel p) ∧
      ((∃ p, SpriteCovers s x y n p ∧ s.fb.pixel p = true) → t.reg vf = 1) ∧
      ((¬∃ p, SpriteCovers s x y n p ∧ s.fb.pixel p = true) → t.reg vf = 0) ∧
      t.redraw = true ∧ RegsUnchangedBut [vf] s t ∧ UnchangedBut [.v, .fb, .redraw] s t

/-- R187: the same sprite drawn twice at the same coordinates restores the framebuffer, and the second draw sets `VF` iff the first
left a cell under the sprite lit. Between the two, `pc` and `redraw` may be anything. Neither coordinate is in `VF`, which the first
draw writes. -/
def Obligations.DrwTwiceRestoresFramebuffer : Prop :=
  ∀ (x y : Reg) (n : Nibble) (s t u : State) (a : Word) (b : Bool),
    x ≠ vf → y ≠ vf → n = 0 ∨ s.i.toNat + n.toNat ≤ 4096 →
    exec (.drw x y n) s = .next t → exec (.drw x y n) { t with pc := a, redraw := b } = .next u →
    u.fb = s.fb ∧ (u.reg vf = 1 ↔ ∃ p, SpriteCovers s x y n p ∧ t.fb.pixel p = true)

/-! ### Encoding -/

/-- R100, R105: every instruction decodes from its own word, with every operand at every value; no bit of an encoding is dropped. -/
def Obligations.DecodeOfEncode : Prop :=
  ∀ i : Instr, decodeWord (encode i) = .ok i

/-- R103, R105: a word that decodes to an instruction is that instruction's only word. -/
def Obligations.EncodeOfDecode : Prop :=
  ∀ (w : Word) (i : Instr), decodeWord w = .ok i → encode i = w

/-- R100: the dispatch on fields (R95 to R99) accepts a word exactly when the table of R105 has a row for it. -/
def Obligations.DecoderAcceptsExactlyTheTable : Prop :=
  ∀ w : Word, (∃ i, decodeWord w = .ok i) ↔ legalWord w = true

/-- R100: no word matches two rows of the table. -/
def Obligations.OpcodeRowsDoNotOverlap : Prop :=
  ∀ (w : Word) (j k : Nat) (r q : Row), opcodeRows[j]? = some r → opcodeRows[k]? = some q →
    r.matchesWord w = true → q.matchesWord w = true → j = k

/-- R108: the four worked decodings of the source. -/
def Obligations.SourceWordsDecode : Prop :=
  decodeWord 0x6A05 = .ok (.ldByte 0xA 0x05) ∧ decodeWord 0x00E0 = .ok .cls ∧
  decodeWord 0xA202 = .ok (.ldI 0x202) ∧ decodeWord 0xD015 = .ok (.drw 0 1 5)

/-! ### The step -/

/-- R121: a running machine with `pc` above 4094 raises `FetchOutOfBounds` with that `pc` and no word and changes nothing else;
otherwise the word fetched is the two bytes at `pc`, the first one high. The record's address and absent word are the spec's decision
D14 (log entry 8), the kept `redraw` its D16 and the latch and the other fields its D15 (log entry 7). -/
def Obligations.FetchReadsTwoBytesOrFaults : Prop :=
  ∀ s : State, s.running →
    (4094 < s.pc.toNat → s.fetch = none ∧ ∃ t, step s = .next t ∧ t.fault = some ⟨.fetchOutOfBounds, s.pc, none⟩ ∧
      UnchangedBut [.fault] s t) ∧
    (s.pc.toNat ≤ 4094 → ∃ w, s.fetch = some w ∧
      w.toNat = (s.mem.read s.pc.toNat).toNat * 256 + (s.mem.read (s.pc.toNat + 1)).toNat)

/-- R122 to R124: where the bytes at `pc` decode to `i`, the step is `exec i` on the state with `pc` past the word and `redraw`
cleared. -/
def Obligations.StepRunsDecodedInstruction : Prop :=
  ∀ (s : State) (i : Instr), s.running → s.pc.toNat ≤ 4094 →
    decodeWord (wordOfBytes (s.mem.read s.pc.toNat) (s.mem.read (s.pc.toNat + 1))) = .ok i →
    step s = exec i { s with pc := s.pc + 2, redraw := false }

/-- R225: a fetched word that is none of the 34 instructions raises `IllegalOpcode`, after `pc` was advanced and `redraw` cleared.
That nothing else changes is R232, the spec's decision D15 (log entry 7), and which words are illegal is its D3 and D5 (log entries 4,
21). -/
def Obligations.IllegalWordFaultsAfterAdvance : Prop :=
  ∀ s : State, s.running → s.pc.toNat ≤ 4094 →
    legalWord (wordOfBytes (s.mem.read s.pc.toNat) (s.mem.read (s.pc.toNat + 1))) = false →
    ∃ t, step s = .next t ∧ (∃ a w, t.fault = some ⟨.illegalOpcode, a, w⟩) ∧ t.pc = s.pc + 2 ∧ t.redraw = false ∧
      UnchangedBut [.pc, .redraw, .fault] s t

/-- R233: a faulted machine's step changes nothing. The latch is the spec's decision D15 (log entry 7). -/
def Obligations.FaultedStepChangesNothing : Prop :=
  ∀ (s : State) (r : FaultRecord), s.fault = some r → step s = .next s

/-- R230 to R232: whatever the instruction, a fault records the address and the word of the offending instruction, and the state is
otherwise the one before a step that could not fetch, or the one after phase 2. Record and state are the spec's decisions D14, D15
(log entries 7, 8). -/
def Obligations.FaultsArePreciseAndRecorded : Prop :=
  ∀ (s t : State) (r : FaultRecord), s.running → step s = .next t → t.fault = some r →
    r.faultPc = s.pc ∧ r.faultWord = s.fetch ∧ (r.kind = .fetchOutOfBounds ↔ s.fetch = none) ∧
    (s.fetch = none → UnchangedBut [.fault] s t) ∧
    (s.fetch ≠ none → t.pc = s.pc + 2 ∧ t.redraw = false ∧ UnchangedBut [.pc, .redraw, .fault] s t)

/-- R228: in execute an instruction raises only the faults of its own row of the list; the other 27 raise none. -/
def Obligations.ExecRaisesOnlyListedFaults : Prop :=
  ∀ (i : Instr) (s t : State) (r : FaultRecord), s.running → exec i s = .next t → t.fault = some r → r.kind ∈ i.faults

/-- R131: there is no instruction that stops the machine: every step of every state answers a next state. -/
def Obligations.StepAlwaysAnswersNext : Prop :=
  ∀ s : State, ∃ t, step s = .next t

/-- R40: the execute phase of an instruction writes its own fields, or raises a fault and writes nothing. In particular no step
writes `key`. -/
def Obligations.ExecWritesOnlyOwnFields : Prop :=
  ∀ (i : Instr) (s t : State), exec i s = .next t → UnchangedBut i.writes s t ∨ UnchangedBut [.fault] s t

/-- R24: a register that an instruction does not name as its destination changes only if it is `VF` and the instruction is one of the
six flag writers, and then it is 0 or 1. That the others leave `VF` alone is the spec's decision D12 (log entry 13). -/
def Obligations.OnlyFlagWritersTouchVf : Prop :=
  ∀ (i : Instr) (s t : State) (r : Reg), exec i s = .next t → r ∉ i.destRegs →
    t.reg r = s.reg r ∨ (r = vf ∧ i.writesFlag = true ∧ (t.reg vf = 0 ∨ t.reg vf = 1))

/-- R27: a step without a fault leaves `pc` at the next word, and only the listed instructions leave it elsewhere, each where its
rule says. -/
def Obligations.ControlFlowOnlyByListedInstructions : Prop :=
  ∀ (s t : State) (w : Word) (i : Instr), s.running → s.fetch = some w → decodeWord w = .ok i → step s = .next t →
    t.fault = none →
    t.pc = s.pc + 2 ∨
    (i.isSkip = true ∧ t.pc = s.pc + 4) ∨
    (∃ nnn, (i = .jpAddr nnn ∨ i = .callAddr nnn) ∧ t.pc.toNat = nnn.toNat) ∨
    (∃ nnn, i = .jpV0 nnn ∧ t.pc.toNat = nnn.toNat + (s.reg 0).toNat) ∨
    (i = .ret ∧ s.stack[s.sp.val - 1]? = some t.pc) ∨
    (∃ x, i = .ldVxK x ∧ (∀ k, s.keyDown k = false) ∧ t.pc = s.pc)

/-- R33: after a step of a running machine that fetched, `redraw` is set exactly when the step executed `CLS` or `DRW` without
faulting. -/
def Obligations.RedrawSetExactlyByDrawingStep : Prop :=
  ∀ (s t : State) (w : Word), s.running → s.fetch = some w → step s = .next t →
    (t.redraw = true ↔ t.fault = none ∧ ∃ i, decodeWord w = .ok i ∧ i.requestsRedraw = true)

/-- R80, R241: the count of random draws, which stands for the host's bytes still to come, reaches the state only through `RND`: a
step of any other instruction does the same for every count. -/
def Obligations.StepWithoutRndIgnoresDraws : Prop :=
  ∀ (s t : State) (n : Nat), step s = .next t →
    (∀ w i, s.fetch = some w → decodeWord w = .ok i → i.usesRandom = false) →
    step { s with draws := n } = .next { t with draws := n }

/-- R43: a step right after Reset, with no Load, fetches the word 0 and raises `IllegalOpcode`. The record's address is the spec's
decision D14 (log entry 8), and that the word is illegal its D5 (log entry 21). -/
def Obligations.StepRightAfterResetIsIllegal : Prop :=
  ∃ t, step State.reset = .next t ∧ t.fault = some ⟨.illegalOpcode, 0x200, some 0x0000⟩ ∧ t.pc = 0x202

/-! ### Invariants -/

/-- The state right after reset meets the invariant: R42 gives `pc` and the call stack. That memory is in canonical form is no rule
of the spec but the model's own representation (DEDUCED, log entry 16). -/
def Obligations.ResetMeetsInvariant : Prop := State.reset.Inv

/-- Every step keeps `pc` at most `0x10FE` (R29), every call-stack entry at most 4096 (the largest return address, R141), and memory
in its canonical form, which is no rule of the spec but the model's own representation (DEDUCED, log entry 16). -/
def Obligations.StepKeepsInvariant : Prop :=
  ∀ s t : State, s.Inv → step s = .next t → t.Inv

/-- So does every schedule of steps and host operations, in any order and number (R74, R279; that nothing is assumed of it is the
spec's decision D32, log entry 26). The canonical form of memory is the model's own representation (DEDUCED, log entry 16). -/
def Obligations.EveryScheduleKeepsInvariant : Prop :=
  ∀ (os : List Op) (s : State), s.Inv → ∃ t, runOps os s = .next t ∧ t.Inv

/-- R233: once a fault is latched, no schedule without a Reset clears or changes it, and only what `Load`, `Tick` and `KeyWrite` write
can still change. The latch is the spec's decision D15 (log entry 7). -/
def Obligations.FaultLatchStaysUntilReset : Prop :=
  ∀ (os : List Op) (s : State) (r : FaultRecord), s.fault = some r → Op.reset ∉ os →
    ∃ t, runOps os s = .next t ∧ t.fault = some r ∧ UnchangedBut [.mem, .dt, .st, .key] s t

/-! ### Host operations -/

/-- R260, R261: every field at its reset value, whatever the state before; two resets do what one does. The model's own `draws`
stays (log entry 17). -/
def Obligations.ResetZeroesAllAndRewritesGlyphs : Prop :=
  ∀ s t : State, t = s.hostReset →
    (∀ r, t.reg r = 0) ∧ t.i = 0 ∧ t.pc = 0x200 ∧ t.sp.val = 0 ∧ (∀ j : Nat, j < 16 → t.stack[j]? = some 0) ∧
    (∀ a, a < 0x050 ∨ 0x09F < a → t.mem.read a = 0) ∧
    (∀ k : Nat, k < 80 → glyphRom[k]? = some (t.mem.read (0x050 + k))) ∧
    (∀ p, t.fb.pixel p = false) ∧ t.dt = 0 ∧ t.st = 0 ∧ (∀ k, t.keyDown k = false) ∧ t.redraw = false ∧ t.fault = none ∧
    t.hostReset = t ∧ UnchangedBut [.draws] State.reset t

/-- R263 to R265: the first 3584 bytes of the image from `0x200` up, every other byte and every other field as before,
whatever the state: R265, the spec's decision D19 (log entry 23). -/
def Obligations.LoadCopiesImageTruncated : Prop :=
  ∀ (s : State) (image : List Byte),
    (∀ k : Nat, k < image.length → k < 3584 → image[k]? = some ((s.load image).mem.read (0x200 + k))) ∧
    (∀ a, a < 0x200 ∨ 0x200 + min image.length 3584 ≤ a → (s.load image).mem.read a = s.mem.read a) ∧
    UnchangedBut [.mem] s (s.load image)

/-- R236, R237: `n` ticks take `n` from both timers, down to zero and no further, and touch nothing else. That one operation serves
both timers is the spec's decision D20 (log entry 22). -/
def Obligations.TicksCountBothTimersDown : Prop :=
  ∀ (n : Nat) (s : State), (State.tick^[n] s).dt.toNat = s.dt.toNat - n ∧ (State.tick^[n] s).st.toNat = s.st.toNat - n ∧
    UnchangedBut [.dt, .st] s (State.tick^[n] s)

/-- R238: one key's flag takes the value written, the others stay, and nothing else changes. The operation is the spec's decision
D27 (log entry 22). -/
def Obligations.KeyWriteSetsOneFlag : Prop :=
  ∀ (s : State) (k : Fin nKeys) (b : Bool), (s.keyWrite k b).keyDown k = b ∧
    (∀ j, j ≠ k → (s.keyWrite k b).keyDown j = s.keyDown j) ∧ UnchangedBut [.key] s (s.keyWrite k b)
end

