-- ==== Sys2Proof/Laws/Encoding.lean ====
section
/-! SUPPORT. Laws of the formats: each field of an encoded word reads back as what was put there, a word is put together again from
its fields, and the fixed bits of a format under its mask (`30_encoding.md` R91, R93). -/

namespace Sys2Proof

/-! ### Fields of encoded words -/

@[simp] theorem fieldOp_formatA (c : Nibble) (nnn : Addr12) : fieldOp (formatA c nnn) = c :=
  (BitVec.extractLsb'_append_eq_of_le (Nat.le_refl 12)).trans BitVec.extractLsb'_eq_self

@[simp] theorem fieldNNN_formatA (c : Nibble) (nnn : Addr12) : fieldNNN (formatA c nnn) = nnn :=
  BitVec.extractLsb'_append_eq_right

@[simp] theorem fieldOp_formatXI (c : Nibble) (x : Reg) (nn : Byte) : fieldOp (formatXI c x nn) = c :=
  ((BitVec.extractLsb'_append_eq_of_le (by decide)).trans
    (BitVec.extractLsb'_append_eq_of_le (Nat.le_refl 4))).trans BitVec.extractLsb'_eq_self

@[simp] theorem fieldX_formatXI (c : Nibble) (x : Reg) (nn : Byte) : fieldX (formatXI c x nn) = x :=
  congrArg BitVec.toFin ((BitVec.extractLsb'_append_eq_of_le (Nat.le_refl 8)).trans
    (BitVec.extractLsb'_append_eq_right (a := c) (b := (BitVec.ofFin x : Nibble))))

@[simp] theorem fieldNN_formatXI (c : Nibble) (x : Reg) (nn : Byte) : fieldNN (formatXI c x nn) = nn :=
  BitVec.extractLsb'_append_eq_right

@[simp] theorem fieldOp_formatXYN (c : Nibble) (x y : Reg) (n : Nibble) : fieldOp (formatXYN c x y n) = c :=
  ((BitVec.extractLsb'_append_eq_of_le (by decide)).trans
    ((BitVec.extractLsb'_append_eq_of_le (by decide)).trans
      (BitVec.extractLsb'_append_eq_of_le (Nat.le_refl 4)))).trans BitVec.extractLsb'_eq_self

@[simp] theorem fieldX_formatXYN (c : Nibble) (x y : Reg) (n : Nibble) : fieldX (formatXYN c x y n) = x :=
  congrArg BitVec.toFin ((BitVec.extractLsb'_append_eq_of_le (by decide)).trans
    ((BitVec.extractLsb'_append_eq_of_le (Nat.le_refl 4)).trans
      (BitVec.extractLsb'_append_eq_right (a := c) (b := (BitVec.ofFin x : Nibble)))))

@[simp] theorem fieldY_formatXYN (c : Nibble) (x y : Reg) (n : Nibble) : fieldY (formatXYN c x y n) = y :=
  congrArg BitVec.toFin ((BitVec.extractLsb'_append_eq_of_le (Nat.le_refl 4)).trans
    (BitVec.extractLsb'_append_eq_right (a := c ++ (BitVec.ofFin x : Nibble)) (b := (BitVec.ofFin y : Nibble))))

@[simp] theorem fieldN_formatXYN (c : Nibble) (x y : Reg) (n : Nibble) : fieldN (formatXYN c x y n) = n :=
  BitVec.extractLsb'_append_eq_right

/-! ### Words from their fields -/

theorem formatA_fields (w : Word) : formatA (fieldOp w) (fieldNNN w) = w :=
  (BitVec.extractLsb'_append_extractLsb'_eq_extractLsb' (w := 16) (x := w) (by decide)).trans BitVec.extractLsb'_eq_self

theorem formatXI_fields (w : Word) : formatXI (fieldOp w) (fieldX w) (fieldNN w) = w := by
  have h : (w.extractLsb' 12 4 ++ w.extractLsb' 8 4 : BitVec 8) = w.extractLsb' 8 8 :=
    BitVec.extractLsb'_append_extractLsb'_eq_extractLsb' (by decide)
  show ((w.extractLsb' 12 4 ++ w.extractLsb' 8 4 : BitVec 8) ++ w.extractLsb' 0 8 : Word) = w
  rw [h]
  exact (BitVec.extractLsb'_append_extractLsb'_eq_extractLsb' (w := 16) (x := w) (by decide)).trans BitVec.extractLsb'_eq_self

theorem formatXYN_fields (w : Word) : formatXYN (fieldOp w) (fieldX w) (fieldY w) (fieldN w) = w := by
  have h : (w.extractLsb' 12 4 ++ w.extractLsb' 8 4 : BitVec 8) = w.extractLsb' 8 8 :=
    BitVec.extractLsb'_append_extractLsb'_eq_extractLsb' (by decide)
  have h' : (w.extractLsb' 8 8 ++ w.extractLsb' 4 4 : BitVec 12) = w.extractLsb' 4 12 :=
    BitVec.extractLsb'_append_extractLsb'_eq_extractLsb' (by decide)
  show (((w.extractLsb' 12 4 ++ w.extractLsb' 8 4 : BitVec 8) ++ w.extractLsb' 4 4 : BitVec 12) ++ w.extractLsb' 0 4 : Word) = w
  rw [h, h']
  exact (BitVec.extractLsb'_append_extractLsb'_eq_extractLsb' (w := 16) (x := w) (by decide)).trans BitVec.extractLsb'_eq_self

/-- The two bytes of a word, put together again (R63). -/
theorem wordOfBytes_bytes (w : Word) : wordOfBytes (w.extractLsb' 8 8) (w.extractLsb' 0 8) = w :=
  (BitVec.extractLsb'_append_extractLsb'_eq_extractLsb' (w := 16) (x := w) (by decide)).trans BitVec.extractLsb'_eq_self

/-! ### Fixed bits -/

theorem formatA_and (c : Nibble) (nnn : Addr12) : formatA c nnn &&& 0xF000 = formatA c 0 := by
  refine (BitVec.and_append (x₂ := (0xF : Nibble)) (y₂ := (0x000 : Addr12))).trans ?_
  rw [show c &&& (0xF : Nibble) = c from BitVec.and_allOnes, show nnn &&& (0x000 : Addr12) = 0 from BitVec.and_zero]
  rfl

theorem formatXI_and (c : Nibble) (x : Reg) (nn m : Byte) :
    formatXI c x nn &&& formatXI 0xF 0 m = formatXI c 0 (nn &&& m) := by
  refine (BitVec.and_append (x₂ := (0xF : Nibble) ++ (0x0 : Nibble)) (y₂ := m)).trans ?_
  rw [BitVec.and_append, show c &&& (0xF : Nibble) = c from BitVec.and_allOnes,
    show (BitVec.ofFin x : Nibble) &&& (0x0 : Nibble) = 0 from BitVec.and_zero]
  rfl

theorem formatXYN_and (c : Nibble) (x y : Reg) (n m : Nibble) :
    formatXYN c x y n &&& formatXYN 0xF 0 0 m = formatXYN c 0 0 (n &&& m) := by
  refine (BitVec.and_append (x₂ := (0xF : Nibble) ++ (0x0 : Nibble) ++ (0x0 : Nibble)) (y₂ := m)).trans ?_
  rw [BitVec.and_append, BitVec.and_append, show c &&& (0xF : Nibble) = c from BitVec.and_allOnes,
    show (BitVec.ofFin x : Nibble) &&& (0x0 : Nibble) = 0 from BitVec.and_zero,
    show (BitVec.ofFin y : Nibble) &&& (0x0 : Nibble) = 0 from BitVec.and_zero]
  rfl

end Sys2Proof
end

