-- ==== Sys2Proof/Laws/Framebuffer.lean ====
section
/-! SUPPORT. Laws of the framebuffer and of the sprite: a cell after a write, a cell after toggling a list of distinct cells,
which cells a sprite covers, and that it covers each at most once (`46_draw.md` R187). -/

namespace Sys2Proof.Machine

open Sys2Proof.Config

/-- A cell after a write. -/
@[simp] theorem Framebuffer.pixel_setPixel (fb : Framebuffer) (p q : Pixel) (b : Bool) :
    (fb.setPixel p b).pixel q = if q = p then b else fb.pixel q := by
  obtain ⟨px, py⟩ := p
  obtain ⟨qx, qy⟩ := q
  simp only [Framebuffer.pixel, Framebuffer.setPixel, Vector.get_eq_getElem, Vector.getElem_set, Prod.mk.injEq, Fin.ext_iff]
  by_cases hy : qy.val = py.val
  · by_cases hx : qx.val = px.val
    · simp [hx, hy]
    · simp [hx, hy, Ne.symm hx]
  · simp [hy, Ne.symm hy]

@[simp] theorem Framebuffer.pixel_blank (p : Pixel) : Framebuffer.blank.pixel p = false := by
  simp [Framebuffer.pixel, Framebuffer.blank, Vector.get_eq_getElem]

/-- Framebuffers with the same cells are equal. -/
theorem Framebuffer.ext_pixel {f g : Framebuffer} (h : ∀ p, f.pixel p = g.pixel p) : f = g := by
  refine Vector.ext fun y hy => Vector.ext fun x hx => ?_
  simpa [Framebuffer.pixel, Vector.get_eq_getElem] using h (⟨x, hx⟩, ⟨y, hy⟩)

/-- Toggling distinct cells: each is inverted, the others stay, and there is a hit iff one of them was lit. -/
theorem Framebuffer.toggle_spec (ps : List Pixel) (fb : Framebuffer) (hit : Bool) (h : ps.Nodup) :
    (∀ q, (fb.toggle hit ps).1.pixel q = if q ∈ ps then !fb.pixel q else fb.pixel q) ∧
      ((fb.toggle hit ps).2 = true ↔ hit = true ∨ ∃ p ∈ ps, fb.pixel p = true) := by
  induction ps generalizing fb hit with
  | nil => simp [Framebuffer.toggle]
  | cons p ps ih =>
    rw [List.nodup_cons] at h
    obtain ⟨ih1, ih2⟩ := ih (fb.setPixel p (!fb.pixel p)) (hit || fb.pixel p) h.2
    have hne : ∀ q ∈ ps, q ≠ p := fun q hq heq => h.1 (heq ▸ hq)
    refine ⟨fun q => ?_, ?_⟩
    · rw [Framebuffer.toggle, ih1]
      by_cases hq : q ∈ ps
      · simp [hq, hne q hq]
      · by_cases hp : q = p
        · subst hp; simp [hq]
        · simp [hq, hp]
    · rw [Framebuffer.toggle, ih2]
      have : (∃ q ∈ ps, (fb.setPixel p (!fb.pixel p)).pixel q = true) ↔ ∃ q ∈ ps, fb.pixel q = true :=
        exists_congr fun q => and_congr_right fun hq => by simp [hne q hq]
      rw [this]
      simp [or_assoc]

theorem mem_spriteColumns (b : Byte) (col : Nat) : col ∈ spriteColumns b ↔ col < 8 ∧ b.getLsbD (7 - col) = true := by
  unfold spriteColumns
  rw [List.mem_filter]
  refine and_congr_left fun _ => ?_
  constructor
  · intro h
    simp only [List.mem_cons, List.not_mem_nil, or_false] at h
    omega
  · intro h
    simp only [List.mem_cons, List.not_mem_nil, or_false]
    omega

/-- The cells of a sprite: one for each set bit of each row. -/
theorem mem_spritePixels (x0 y0 row : Nat) (bs : List Byte) (p : Pixel) :
    p ∈ spritePixels x0 y0 row bs ↔
      ∃ k col, ∃ h : k < bs.length, col < 8 ∧ bs[k].getLsbD (7 - col) = true ∧ p = spritePixel x0 y0 col (row + k) := by
  induction bs generalizing row with
  | nil => simp [spritePixels]
  | cons b bs ih =>
    rw [spritePixels, List.mem_append, ih, List.mem_map]
    constructor
    · rintro (⟨col, hc, rfl⟩ | ⟨k, col, hk, h8, hb, rfl⟩)
      · rw [mem_spriteColumns] at hc
        exact ⟨0, col, Nat.succ_pos _, hc.1, hc.2, rfl⟩
      · refine ⟨k + 1, col, Nat.succ_lt_succ hk, h8, hb, ?_⟩
        congr 1
        omega
    · rintro ⟨k, col, hk, h8, hb, rfl⟩
      cases k with
      | zero => exact .inl ⟨col, (mem_spriteColumns _ _).2 ⟨h8, hb⟩, rfl⟩
      | succ k =>
        refine .inr ⟨k, col, Nat.lt_of_succ_lt_succ hk, h8, hb, ?_⟩
        congr 1
        omega

/-- Cells of one sprite are equal only for equal columns and rows: at most 8 columns and fewer than 32 rows, so no two wrap onto
each other (R187). -/
theorem spritePixel_inj {x0 y0 c c' r r' : Nat} (hc : c < 8) (hc' : c' < 8) (hr : r < fbH) (hr' : r' < fbH)
    (h : spritePixel x0 y0 c r = spritePixel x0 y0 c' r') : c = c' ∧ r = r' := by
  simp only [spritePixel, Prod.mk.injEq, Fin.ext_iff, Fin.val_ofNat] at h
  have h1 := h.1
  have h2 := h.2
  simp only [fbW, fbH] at *
  omega

theorem nodup_spriteColumns (b : Byte) : (spriteColumns b).Nodup := List.Nodup.filter _ (by decide)

theorem nodup_spritePixels (x0 y0 row : Nat) (bs : List Byte) (h : row + bs.length ≤ fbH) :
    (spritePixels x0 y0 row bs).Nodup := by
  induction bs generalizing row with
  | nil => simp [spritePixels]
  | cons b bs ih =>
    rw [List.length_cons] at h
    rw [spritePixels, List.nodup_append]
    refine ⟨?_, ih _ (by omega), ?_⟩
    · refine List.Nodup.map_on ?_ (nodup_spriteColumns b)
      intro c hc c' hc' heq
      rw [mem_spriteColumns] at hc hc'
      exact (spritePixel_inj hc.1 hc'.1 (by omega) (by omega) heq).1
    · rintro p hp q hq rfl
      obtain ⟨col, hcol, rfl⟩ := List.mem_map.1 hp
      obtain ⟨k, col', hk, h8, _, heq⟩ := (mem_spritePixels ..).1 hq
      rw [mem_spriteColumns] at hcol
      have := (spritePixel_inj hcol.1 h8 (by omega) (by omega) heq).2
      omega

end Sys2Proof.Machine
end

