-- ==== Sys2Proof/Laws/Memory.lean ====
section
/-! SUPPORT. Laws of main memory: read after write, and that every operation keeps the canonical form. The read laws need no
well-formedness: a write drops every cell at its address. -/

namespace Sys2Proof.Machine

open Sys2Proof.Config

theorem Memory.read_filter_ne (m : Memory) (a b : Nat) :
    (Memory.read (m.filter (fun c => c.1 != a)) b) = if b = a then Memory.background b else m.read b := by
  induction m with
  | nil => simp [Memory.read]
  | cons c m ih =>
    obtain ⟨k, v⟩ := c
    by_cases hk : k = a
    · subst hk
      by_cases hb : b = k
      · simp_all
      · simp_all [Memory.read, eq_comm]
    · by_cases hkb : k = b
      · subst hkb
        simp [Memory.read, hk]
      · simp_all [Memory.read]

theorem Memory.read_insert (m : Memory) (a : Nat) (v : Byte) (b : Nat) (h : ∀ c ∈ m, c.1 ≠ a) :
    Memory.read (Memory.insert a v m) b = if b = a then v else m.read b := by
  induction m with
  | nil => simp [Memory.insert, Memory.read, eq_comm]
  | cons c m ih =>
    obtain ⟨k, w⟩ := c
    have hk : k ≠ a := h (k, w) (List.mem_cons_self ..)
    have ih := ih fun c hc => h c (List.mem_cons_of_mem _ hc)
    unfold Memory.insert
    split
    · simp [Memory.read, eq_comm]
    · by_cases hb : b = a
      · subst hb
        simp [Memory.read, hk, ih]
      · simp [Memory.read, ih, hb]

/-- A read after a write: the byte written at its address, the byte before everywhere else. -/
theorem Memory.read_write (m : Memory) (a : Nat) (v : Byte) (b : Nat) :
    (m.write a v).read b = if b = a then v else m.read b := by
  unfold Memory.write
  dsimp only
  split
  · next h => rw [Memory.read_filter_ne]; split <;> simp_all
  · rw [Memory.read_insert _ _ _ _ (by simp), Memory.read_filter_ne]
    split <;> rfl

@[simp] theorem Memory.read_write_same (m : Memory) (a : Nat) (v : Byte) : (m.write a v).read a = v := by
  simp [Memory.read_write]

theorem Memory.read_write_other (m : Memory) {a b : Nat} (v : Byte) (h : b ≠ a) : (m.write a v).read b = m.read b := by
  simp [Memory.read_write, h]

/-- A run of stores: the bytes stored in their range, the bytes before everywhere else. -/
theorem Memory.read_storeBytes (bs : List Byte) (m : Memory) (a b : Nat) :
    (m.storeBytes a bs).read b = if a ≤ b then bs.getD (b - a) (m.read b) else m.read b := by
  induction bs generalizing m a with
  | nil => simp [Memory.storeBytes]
  | cons v bs ih =>
    rw [Memory.storeBytes, ih, Memory.read_write]
    by_cases h : a + 1 ≤ b
    · obtain ⟨d, rfl⟩ := Nat.exists_eq_add_of_le h
      have h1 : a + 1 + d - a = d + 1 := by omega
      have h2 : a ≤ a + 1 + d := by omega
      have h3 : a + 1 + d ≠ a := by omega
      simp [h1, h2, h3]
    · by_cases hb : b = a
      · subst hb; simp
      · have h4 : ¬ a ≤ b := by omega
        simp [h, hb, h4]

/-- Outside the stored range memory reads as before. -/
theorem Memory.read_storeBytes_outside (bs : List Byte) (m : Memory) {a b : Nat} (h : b < a ∨ a + bs.length ≤ b) :
    (m.storeBytes a bs).read b = m.read b := by
  rw [Memory.read_storeBytes]
  split
  · rw [List.getD_eq_default]
    omega
  · rfl

/-- Inside the stored range memory reads as stored. -/
theorem Memory.read_storeBytes_inside (bs : List Byte) (m : Memory) (a k : Nat) (h : k < bs.length) :
    (m.storeBytes a bs).read (a + k) = bs[k] := by
  rw [Memory.read_storeBytes]
  simp [h]

@[simp] theorem Memory.length_readBytes (m : Memory) (a n : Nat) : (m.readBytes a n).length = n := by
  induction n generalizing a with
  | zero => rfl
  | succ n ih => simp [Memory.readBytes, ih]

/-- The bytes of a run of reads. -/
theorem Memory.getElem_readBytes (m : Memory) (a n k : Nat) (h : k < (m.readBytes a n).length) :
    (m.readBytes a n)[k] = m.read (a + k) := by
  induction n generalizing a k with
  | zero => simp at h
  | succ n ih =>
    cases k with
    | zero => simp [Memory.readBytes]
    | succ k =>
      simp only [Memory.readBytes, List.getElem_cons_succ]
      rw [ih]
      congr 1
      omega

/-! ### The canonical form -/

theorem Memory.mem_insert (m : Memory) (a : Nat) (v : Byte) (c : Host.Cell) :
    c ∈ Memory.insert a v m ↔ c = (a, v) ∨ c ∈ m := by
  induction m with
  | nil => simp [Memory.insert]
  | cons d m ih =>
    obtain ⟨k, w⟩ := d
    unfold Memory.insert
    split
    · simp
    · simp only [List.mem_cons, ih]
      tauto

theorem Memory.pairwise_insert (m : Memory) (a : Nat) (v : Byte) (h : ∀ c ∈ m, c.1 ≠ a)
    (hm : m.Pairwise (fun c d => c.1 < d.1)) : (Memory.insert a v m).Pairwise (fun c d => c.1 < d.1) := by
  induction m with
  | nil => simp [Memory.insert]
  | cons d m ih =>
    obtain ⟨k, w⟩ := d
    have hk : k ≠ a := h (k, w) (List.mem_cons_self ..)
    rw [List.pairwise_cons] at hm
    unfold Memory.insert
    split
    · next hlt =>
      refine List.pairwise_cons.2 ⟨?_, List.pairwise_cons.2 hm⟩
      intro c hc
      rcases List.mem_cons.1 hc with rfl | hc
      · exact hlt
      · exact lt_trans hlt (hm.1 c hc)
    · refine List.pairwise_cons.2 ⟨?_, ih (fun c hc => h c (List.mem_cons_of_mem _ hc)) hm.2⟩
      intro c hc
      rcases (Memory.mem_insert m a v c).1 hc with rfl | hc
      · show k < a
        omega
      · exact hm.1 c hc

/-- A write inside memory keeps the canonical form. -/
theorem Memory.write_wf {m : Memory} {a : Nat} (v : Byte) (ha : a < memSize) (hm : m.wf) : (m.write a v).wf := by
  have hf : (m.filter (fun c => c.1 != a)).Pairwise (fun c d => c.1 < d.1) := hm.1.filter _
  unfold Memory.write
  dsimp only
  split
  · exact ⟨hf, fun c hc => hm.2 c (List.mem_of_mem_filter hc)⟩
  · next hv =>
    refine ⟨Memory.pairwise_insert _ _ _ (by simp) hf, fun c hc => ?_⟩
    rcases (Memory.mem_insert _ _ _ _).1 hc with rfl | hc
    · exact ⟨ha, hv⟩
    · exact hm.2 c (List.mem_of_mem_filter hc)

/-- A run of stores inside memory keeps the canonical form. -/
theorem Memory.storeBytes_wf (bs : List Byte) {m : Memory} {a : Nat} (ha : a + bs.length ≤ memSize) (hm : m.wf) :
    (m.storeBytes a bs).wf := by
  induction bs generalizing m a with
  | nil => exact hm
  | cons v bs ih =>
    rw [List.length_cons] at ha
    exact ih (by omega) (Memory.write_wf v (by omega) hm)

theorem Memory.reset_wf : State.reset.mem.wf := ⟨List.Pairwise.nil, fun _ h => nomatch h⟩

end Sys2Proof.Machine
end

