-- ==== Sys2Proof/Laws/Registers.lean ====
section
/-! SUPPORT. Laws of the register file and of the runs of registers that the transfers move. -/

namespace Sys2Proof.Machine

open Sys2Proof.Config

/-- A register after a write. -/
@[simp] theorem State.reg_setReg (s : State) (x y : Reg) (b : Byte) :
    (s.setReg x b).reg y = if y = x then b else s.reg y := by
  simp only [State.reg, State.setReg, Vector.get_eq_getElem, Vector.getElem_set, Fin.ext_iff, eq_comm]

@[simp] theorem State.reg_setFlagThenReg (s : State) (f : Byte) (x y : Reg) (b : Byte) :
    (s.setFlagThenReg f x b).reg y = if y = x then b else if y = vf then f else s.reg y := by
  simp only [State.setFlagThenReg, State.reg_setReg]

/-- States with the same register file have the same registers. -/
theorem State.reg_congr {s t : State} (h : t.v = s.v) (x : Reg) : t.reg x = s.reg x := by
  simp only [State.reg, h]

@[simp] theorem State.reg_drawFb (s : State) (f : Framebuffer) (x : Reg) : (s.drawFb f).reg x = s.reg x := rfl
@[simp] theorem State.reg_countDraw (s : State) (x : Reg) : s.countDraw.reg x = s.reg x := rfl
@[simp] theorem State.reg_advance (s : State) (x : Reg) : s.advance.reg x = s.reg x := rfl

@[simp] theorem State.length_regsUpTo (s : State) (x : Reg) : (s.regsUpTo x).length = x.val + 1 := by
  simp only [State.regsUpTo, List.length_take, Vector.length_toList]
  have : x.val < nRegs := x.isLt
  omega

/-- `LD [I], Vx` takes `V[0..x]` in order. -/
theorem State.getElem_regsUpTo (s : State) (x k : Reg) (h : k.val < (s.regsUpTo x).length) :
    (s.regsUpTo x)[k.val] = s.reg k := by
  simp [State.regsUpTo, State.reg, Vector.get_eq_getElem]

/-- `LD Vx, [I]`: register `k` takes the byte of its place, or keeps its value. -/
theorem getElem_writeRegs (bs : List Byte) (v : Vector Byte nRegs) (r k : Nat) (h : k < nRegs) :
    (writeRegs v r bs)[k] = if r ≤ k then bs.getD (k - r) v[k] else v[k] := by
  induction bs generalizing v r with
  | nil => simp [writeRegs]
  | cons b bs ih =>
    rw [writeRegs, ih, Vector.getElem_setIfInBounds]
    by_cases h1 : r + 1 ≤ k
    · obtain ⟨d, rfl⟩ := Nat.exists_eq_add_of_le h1
      have h2 : r + 1 + d - r = d + 1 := by omega
      have h3 : r ≤ r + 1 + d := by omega
      have h4 : r ≠ r + 1 + d := by omega
      simp [h2, h3, h4]
    · by_cases h5 : r = k
      · subst h5; simp
      · have h6 : ¬ r ≤ k := by omega
        simp [h1, h5, h6]

/-- The register file after `n` bytes from address `a` are loaded from register 0 up. -/
theorem get_writeRegs_readBytes (m : Memory) (v : Vector Byte nRegs) (a n : Nat) (k : Reg) :
    (writeRegs v 0 (m.readBytes a n)).get k = if k.val < n then m.read (a + k.val) else v.get k := by
  rw [Vector.get_eq_getElem, getElem_writeRegs]
  simp only [Nat.zero_le, if_true, Nat.sub_zero]
  by_cases h : k.val < n
  · rw [if_pos h, List.getD_eq_getElem _ _ (by simpa using h), Memory.getElem_readBytes]
  · rw [if_neg h, List.getD_eq_default _ _ (by simpa using Nat.le_of_not_lt h), Vector.get_eq_getElem]

/-! ### Flags are 0 or 1 -/

theorem b2n_eq_zero_or_one (c : Bool) : b2n c = 0 ∨ b2n c = 1 := by cases c <;> simp [b2n]

@[simp] theorem b2n_true : b2n true = 1 := rfl
@[simp] theorem b2n_false : b2n false = 0 := rfl

end Sys2Proof.Machine
end

