-- ==== Sys2Proof/Laws/State.lean ====
section
/-! SUPPORT. One lemma per field per update of the state, so that no proof unfolds a record update. -/

namespace Sys2Proof.Machine

open Sys2Proof.Config

/-! ### `setReg` -/

@[simp] theorem State.setReg_v (s : State) (x : Reg) (b : Byte) : (s.setReg x b).v = s.v.set x.val b x.isLt := rfl
@[simp] theorem State.setReg_i (s : State) (x : Reg) (b : Byte) : (s.setReg x b).i = s.i := rfl
@[simp] theorem State.setReg_pc (s : State) (x : Reg) (b : Byte) : (s.setReg x b).pc = s.pc := rfl
@[simp] theorem State.setReg_sp (s : State) (x : Reg) (b : Byte) : (s.setReg x b).sp = s.sp := rfl
@[simp] theorem State.setReg_stack (s : State) (x : Reg) (b : Byte) : (s.setReg x b).stack = s.stack := rfl
@[simp] theorem State.setReg_mem (s : State) (x : Reg) (b : Byte) : (s.setReg x b).mem = s.mem := rfl
@[simp] theorem State.setReg_fb (s : State) (x : Reg) (b : Byte) : (s.setReg x b).fb = s.fb := rfl
@[simp] theorem State.setReg_dt (s : State) (x : Reg) (b : Byte) : (s.setReg x b).dt = s.dt := rfl
@[simp] theorem State.setReg_st (s : State) (x : Reg) (b : Byte) : (s.setReg x b).st = s.st := rfl
@[simp] theorem State.setReg_key (s : State) (x : Reg) (b : Byte) : (s.setReg x b).key = s.key := rfl
@[simp] theorem State.setReg_redraw (s : State) (x : Reg) (b : Byte) : (s.setReg x b).redraw = s.redraw := rfl
@[simp] theorem State.setReg_fault (s : State) (x : Reg) (b : Byte) : (s.setReg x b).fault = s.fault := rfl
@[simp] theorem State.setReg_draws (s : State) (x : Reg) (b : Byte) : (s.setReg x b).draws = s.draws := rfl

/-! ### `setRegs` -/

@[simp] theorem State.setRegs_v (s : State) (v : Vector Byte nRegs) : (s.setRegs v).v = v := rfl
@[simp] theorem State.setRegs_i (s : State) (v : Vector Byte nRegs) : (s.setRegs v).i = s.i := rfl
@[simp] theorem State.setRegs_pc (s : State) (v : Vector Byte nRegs) : (s.setRegs v).pc = s.pc := rfl
@[simp] theorem State.setRegs_sp (s : State) (v : Vector Byte nRegs) : (s.setRegs v).sp = s.sp := rfl
@[simp] theorem State.setRegs_stack (s : State) (v : Vector Byte nRegs) : (s.setRegs v).stack = s.stack := rfl
@[simp] theorem State.setRegs_mem (s : State) (v : Vector Byte nRegs) : (s.setRegs v).mem = s.mem := rfl
@[simp] theorem State.setRegs_fb (s : State) (v : Vector Byte nRegs) : (s.setRegs v).fb = s.fb := rfl
@[simp] theorem State.setRegs_dt (s : State) (v : Vector Byte nRegs) : (s.setRegs v).dt = s.dt := rfl
@[simp] theorem State.setRegs_st (s : State) (v : Vector Byte nRegs) : (s.setRegs v).st = s.st := rfl
@[simp] theorem State.setRegs_key (s : State) (v : Vector Byte nRegs) : (s.setRegs v).key = s.key := rfl
@[simp] theorem State.setRegs_redraw (s : State) (v : Vector Byte nRegs) : (s.setRegs v).redraw = s.redraw := rfl
@[simp] theorem State.setRegs_fault (s : State) (v : Vector Byte nRegs) : (s.setRegs v).fault = s.fault := rfl
@[simp] theorem State.setRegs_draws (s : State) (v : Vector Byte nRegs) : (s.setRegs v).draws = s.draws := rfl

/-! ### `setI` -/

@[simp] theorem State.setI_v (s : State) (a : Word) : (s.setI a).v = s.v := rfl
@[simp] theorem State.setI_i (s : State) (a : Word) : (s.setI a).i = a := rfl
@[simp] theorem State.setI_pc (s : State) (a : Word) : (s.setI a).pc = s.pc := rfl
@[simp] theorem State.setI_sp (s : State) (a : Word) : (s.setI a).sp = s.sp := rfl
@[simp] theorem State.setI_stack (s : State) (a : Word) : (s.setI a).stack = s.stack := rfl
@[simp] theorem State.setI_mem (s : State) (a : Word) : (s.setI a).mem = s.mem := rfl
@[simp] theorem State.setI_fb (s : State) (a : Word) : (s.setI a).fb = s.fb := rfl
@[simp] theorem State.setI_dt (s : State) (a : Word) : (s.setI a).dt = s.dt := rfl
@[simp] theorem State.setI_st (s : State) (a : Word) : (s.setI a).st = s.st := rfl
@[simp] theorem State.setI_key (s : State) (a : Word) : (s.setI a).key = s.key := rfl
@[simp] theorem State.setI_redraw (s : State) (a : Word) : (s.setI a).redraw = s.redraw := rfl
@[simp] theorem State.setI_fault (s : State) (a : Word) : (s.setI a).fault = s.fault := rfl
@[simp] theorem State.setI_draws (s : State) (a : Word) : (s.setI a).draws = s.draws := rfl

/-! ### `setPc` -/

@[simp] theorem State.setPc_v (s : State) (a : Word) : (s.setPc a).v = s.v := rfl
@[simp] theorem State.setPc_i (s : State) (a : Word) : (s.setPc a).i = s.i := rfl
@[simp] theorem State.setPc_pc (s : State) (a : Word) : (s.setPc a).pc = a := rfl
@[simp] theorem State.setPc_sp (s : State) (a : Word) : (s.setPc a).sp = s.sp := rfl
@[simp] theorem State.setPc_stack (s : State) (a : Word) : (s.setPc a).stack = s.stack := rfl
@[simp] theorem State.setPc_mem (s : State) (a : Word) : (s.setPc a).mem = s.mem := rfl
@[simp] theorem State.setPc_fb (s : State) (a : Word) : (s.setPc a).fb = s.fb := rfl
@[simp] theorem State.setPc_dt (s : State) (a : Word) : (s.setPc a).dt = s.dt := rfl
@[simp] theorem State.setPc_st (s : State) (a : Word) : (s.setPc a).st = s.st := rfl
@[simp] theorem State.setPc_key (s : State) (a : Word) : (s.setPc a).key = s.key := rfl
@[simp] theorem State.setPc_redraw (s : State) (a : Word) : (s.setPc a).redraw = s.redraw := rfl
@[simp] theorem State.setPc_fault (s : State) (a : Word) : (s.setPc a).fault = s.fault := rfl
@[simp] theorem State.setPc_draws (s : State) (a : Word) : (s.setPc a).draws = s.draws := rfl

/-! ### `setDt` -/

@[simp] theorem State.setDt_v (s : State) (b : Byte) : (s.setDt b).v = s.v := rfl
@[simp] theorem State.setDt_i (s : State) (b : Byte) : (s.setDt b).i = s.i := rfl
@[simp] theorem State.setDt_pc (s : State) (b : Byte) : (s.setDt b).pc = s.pc := rfl
@[simp] theorem State.setDt_sp (s : State) (b : Byte) : (s.setDt b).sp = s.sp := rfl
@[simp] theorem State.setDt_stack (s : State) (b : Byte) : (s.setDt b).stack = s.stack := rfl
@[simp] theorem State.setDt_mem (s : State) (b : Byte) : (s.setDt b).mem = s.mem := rfl
@[simp] theorem State.setDt_fb (s : State) (b : Byte) : (s.setDt b).fb = s.fb := rfl
@[simp] theorem State.setDt_dt (s : State) (b : Byte) : (s.setDt b).dt = b := rfl
@[simp] theorem State.setDt_st (s : State) (b : Byte) : (s.setDt b).st = s.st := rfl
@[simp] theorem State.setDt_key (s : State) (b : Byte) : (s.setDt b).key = s.key := rfl
@[simp] theorem State.setDt_redraw (s : State) (b : Byte) : (s.setDt b).redraw = s.redraw := rfl
@[simp] theorem State.setDt_fault (s : State) (b : Byte) : (s.setDt b).fault = s.fault := rfl
@[simp] theorem State.setDt_draws (s : State) (b : Byte) : (s.setDt b).draws = s.draws := rfl

/-! ### `setSt` -/

@[simp] theorem State.setSt_v (s : State) (b : Byte) : (s.setSt b).v = s.v := rfl
@[simp] theorem State.setSt_i (s : State) (b : Byte) : (s.setSt b).i = s.i := rfl
@[simp] theorem State.setSt_pc (s : State) (b : Byte) : (s.setSt b).pc = s.pc := rfl
@[simp] theorem State.setSt_sp (s : State) (b : Byte) : (s.setSt b).sp = s.sp := rfl
@[simp] theorem State.setSt_stack (s : State) (b : Byte) : (s.setSt b).stack = s.stack := rfl
@[simp] theorem State.setSt_mem (s : State) (b : Byte) : (s.setSt b).mem = s.mem := rfl
@[simp] theorem State.setSt_fb (s : State) (b : Byte) : (s.setSt b).fb = s.fb := rfl
@[simp] theorem State.setSt_dt (s : State) (b : Byte) : (s.setSt b).dt = s.dt := rfl
@[simp] theorem State.setSt_st (s : State) (b : Byte) : (s.setSt b).st = b := rfl
@[simp] theorem State.setSt_key (s : State) (b : Byte) : (s.setSt b).key = s.key := rfl
@[simp] theorem State.setSt_redraw (s : State) (b : Byte) : (s.setSt b).redraw = s.redraw := rfl
@[simp] theorem State.setSt_fault (s : State) (b : Byte) : (s.setSt b).fault = s.fault := rfl
@[simp] theorem State.setSt_draws (s : State) (b : Byte) : (s.setSt b).draws = s.draws := rfl

/-! ### `setMem` -/

@[simp] theorem State.setMem_v (s : State) (m : Memory) : (s.setMem m).v = s.v := rfl
@[simp] theorem State.setMem_i (s : State) (m : Memory) : (s.setMem m).i = s.i := rfl
@[simp] theorem State.setMem_pc (s : State) (m : Memory) : (s.setMem m).pc = s.pc := rfl
@[simp] theorem State.setMem_sp (s : State) (m : Memory) : (s.setMem m).sp = s.sp := rfl
@[simp] theorem State.setMem_stack (s : State) (m : Memory) : (s.setMem m).stack = s.stack := rfl
@[simp] theorem State.setMem_mem (s : State) (m : Memory) : (s.setMem m).mem = m := rfl
@[simp] theorem State.setMem_fb (s : State) (m : Memory) : (s.setMem m).fb = s.fb := rfl
@[simp] theorem State.setMem_dt (s : State) (m : Memory) : (s.setMem m).dt = s.dt := rfl
@[simp] theorem State.setMem_st (s : State) (m : Memory) : (s.setMem m).st = s.st := rfl
@[simp] theorem State.setMem_key (s : State) (m : Memory) : (s.setMem m).key = s.key := rfl
@[simp] theorem State.setMem_redraw (s : State) (m : Memory) : (s.setMem m).redraw = s.redraw := rfl
@[simp] theorem State.setMem_fault (s : State) (m : Memory) : (s.setMem m).fault = s.fault := rfl
@[simp] theorem State.setMem_draws (s : State) (m : Memory) : (s.setMem m).draws = s.draws := rfl

/-! ### `drawFb` -/

@[simp] theorem State.drawFb_v (s : State) (f : Framebuffer) : (s.drawFb f).v = s.v := rfl
@[simp] theorem State.drawFb_i (s : State) (f : Framebuffer) : (s.drawFb f).i = s.i := rfl
@[simp] theorem State.drawFb_pc (s : State) (f : Framebuffer) : (s.drawFb f).pc = s.pc := rfl
@[simp] theorem State.drawFb_sp (s : State) (f : Framebuffer) : (s.drawFb f).sp = s.sp := rfl
@[simp] theorem State.drawFb_stack (s : State) (f : Framebuffer) : (s.drawFb f).stack = s.stack := rfl
@[simp] theorem State.drawFb_mem (s : State) (f : Framebuffer) : (s.drawFb f).mem = s.mem := rfl
@[simp] theorem State.drawFb_fb (s : State) (f : Framebuffer) : (s.drawFb f).fb = f := rfl
@[simp] theorem State.drawFb_dt (s : State) (f : Framebuffer) : (s.drawFb f).dt = s.dt := rfl
@[simp] theorem State.drawFb_st (s : State) (f : Framebuffer) : (s.drawFb f).st = s.st := rfl
@[simp] theorem State.drawFb_key (s : State) (f : Framebuffer) : (s.drawFb f).key = s.key := rfl
@[simp] theorem State.drawFb_redraw (s : State) (f : Framebuffer) : (s.drawFb f).redraw = true := rfl
@[simp] theorem State.drawFb_fault (s : State) (f : Framebuffer) : (s.drawFb f).fault = s.fault := rfl
@[simp] theorem State.drawFb_draws (s : State) (f : Framebuffer) : (s.drawFb f).draws = s.draws := rfl

/-! ### `countDraw` -/

@[simp] theorem State.countDraw_v (s : State) : (s.countDraw).v = s.v := rfl
@[simp] theorem State.countDraw_i (s : State) : (s.countDraw).i = s.i := rfl
@[simp] theorem State.countDraw_pc (s : State) : (s.countDraw).pc = s.pc := rfl
@[simp] theorem State.countDraw_sp (s : State) : (s.countDraw).sp = s.sp := rfl
@[simp] theorem State.countDraw_stack (s : State) : (s.countDraw).stack = s.stack := rfl
@[simp] theorem State.countDraw_mem (s : State) : (s.countDraw).mem = s.mem := rfl
@[simp] theorem State.countDraw_fb (s : State) : (s.countDraw).fb = s.fb := rfl
@[simp] theorem State.countDraw_dt (s : State) : (s.countDraw).dt = s.dt := rfl
@[simp] theorem State.countDraw_st (s : State) : (s.countDraw).st = s.st := rfl
@[simp] theorem State.countDraw_key (s : State) : (s.countDraw).key = s.key := rfl
@[simp] theorem State.countDraw_redraw (s : State) : (s.countDraw).redraw = s.redraw := rfl
@[simp] theorem State.countDraw_fault (s : State) : (s.countDraw).fault = s.fault := rfl
@[simp] theorem State.countDraw_draws (s : State) : (s.countDraw).draws = s.draws + 1 := rfl

/-! ### `advance` -/

@[simp] theorem State.advance_v (s : State) : (s.advance).v = s.v := rfl
@[simp] theorem State.advance_i (s : State) : (s.advance).i = s.i := rfl
@[simp] theorem State.advance_pc (s : State) : (s.advance).pc = s.pc + 2 := rfl
@[simp] theorem State.advance_sp (s : State) : (s.advance).sp = s.sp := rfl
@[simp] theorem State.advance_stack (s : State) : (s.advance).stack = s.stack := rfl
@[simp] theorem State.advance_mem (s : State) : (s.advance).mem = s.mem := rfl
@[simp] theorem State.advance_fb (s : State) : (s.advance).fb = s.fb := rfl
@[simp] theorem State.advance_dt (s : State) : (s.advance).dt = s.dt := rfl
@[simp] theorem State.advance_st (s : State) : (s.advance).st = s.st := rfl
@[simp] theorem State.advance_key (s : State) : (s.advance).key = s.key := rfl
@[simp] theorem State.advance_redraw (s : State) : (s.advance).redraw = false := rfl
@[simp] theorem State.advance_fault (s : State) : (s.advance).fault = s.fault := rfl
@[simp] theorem State.advance_draws (s : State) : (s.advance).draws = s.draws := rfl

/-! ### `raise` -/

@[simp] theorem State.raise_v (s : State) (k : FaultKind) (a : Word) (w : Option Word) : (s.raise k a w).v = s.v := rfl
@[simp] theorem State.raise_i (s : State) (k : FaultKind) (a : Word) (w : Option Word) : (s.raise k a w).i = s.i := rfl
@[simp] theorem State.raise_pc (s : State) (k : FaultKind) (a : Word) (w : Option Word) : (s.raise k a w).pc = s.pc := rfl
@[simp] theorem State.raise_sp (s : State) (k : FaultKind) (a : Word) (w : Option Word) : (s.raise k a w).sp = s.sp := rfl
@[simp] theorem State.raise_stack (s : State) (k : FaultKind) (a : Word) (w : Option Word) : (s.raise k a w).stack = s.stack := rfl
@[simp] theorem State.raise_mem (s : State) (k : FaultKind) (a : Word) (w : Option Word) : (s.raise k a w).mem = s.mem := rfl
@[simp] theorem State.raise_fb (s : State) (k : FaultKind) (a : Word) (w : Option Word) : (s.raise k a w).fb = s.fb := rfl
@[simp] theorem State.raise_dt (s : State) (k : FaultKind) (a : Word) (w : Option Word) : (s.raise k a w).dt = s.dt := rfl
@[simp] theorem State.raise_st (s : State) (k : FaultKind) (a : Word) (w : Option Word) : (s.raise k a w).st = s.st := rfl
@[simp] theorem State.raise_key (s : State) (k : FaultKind) (a : Word) (w : Option Word) : (s.raise k a w).key = s.key := rfl
@[simp] theorem State.raise_redraw (s : State) (k : FaultKind) (a : Word) (w : Option Word) : (s.raise k a w).redraw = s.redraw := rfl
@[simp] theorem State.raise_fault (s : State) (k : FaultKind) (a : Word) (w : Option Word) : (s.raise k a w).fault = some ⟨k, a, w⟩ := rfl
@[simp] theorem State.raise_draws (s : State) (k : FaultKind) (a : Word) (w : Option Word) : (s.raise k a w).draws = s.draws := rfl

/-! ### `raiseIn` -/

@[simp] theorem State.raiseIn_v (s : State) (k : FaultKind) (i : Instr) : (s.raiseIn k i).v = s.v := rfl
@[simp] theorem State.raiseIn_i (s : State) (k : FaultKind) (i : Instr) : (s.raiseIn k i).i = s.i := rfl
@[simp] theorem State.raiseIn_pc (s : State) (k : FaultKind) (i : Instr) : (s.raiseIn k i).pc = s.pc := rfl
@[simp] theorem State.raiseIn_sp (s : State) (k : FaultKind) (i : Instr) : (s.raiseIn k i).sp = s.sp := rfl
@[simp] theorem State.raiseIn_stack (s : State) (k : FaultKind) (i : Instr) : (s.raiseIn k i).stack = s.stack := rfl
@[simp] theorem State.raiseIn_mem (s : State) (k : FaultKind) (i : Instr) : (s.raiseIn k i).mem = s.mem := rfl
@[simp] theorem State.raiseIn_fb (s : State) (k : FaultKind) (i : Instr) : (s.raiseIn k i).fb = s.fb := rfl
@[simp] theorem State.raiseIn_dt (s : State) (k : FaultKind) (i : Instr) : (s.raiseIn k i).dt = s.dt := rfl
@[simp] theorem State.raiseIn_st (s : State) (k : FaultKind) (i : Instr) : (s.raiseIn k i).st = s.st := rfl
@[simp] theorem State.raiseIn_key (s : State) (k : FaultKind) (i : Instr) : (s.raiseIn k i).key = s.key := rfl
@[simp] theorem State.raiseIn_redraw (s : State) (k : FaultKind) (i : Instr) : (s.raiseIn k i).redraw = s.redraw := rfl
@[simp] theorem State.raiseIn_fault (s : State) (k : FaultKind) (i : Instr) : (s.raiseIn k i).fault = some ⟨k, s.pc - 2, some (encode i)⟩ := rfl
@[simp] theorem State.raiseIn_draws (s : State) (k : FaultKind) (i : Instr) : (s.raiseIn k i).draws = s.draws := rfl

/-! ### `keyWrite` -/

@[simp] theorem State.keyWrite_v (s : State) (k : Fin nKeys) (b : Bool) : (s.keyWrite k b).v = s.v := rfl
@[simp] theorem State.keyWrite_i (s : State) (k : Fin nKeys) (b : Bool) : (s.keyWrite k b).i = s.i := rfl
@[simp] theorem State.keyWrite_pc (s : State) (k : Fin nKeys) (b : Bool) : (s.keyWrite k b).pc = s.pc := rfl
@[simp] theorem State.keyWrite_sp (s : State) (k : Fin nKeys) (b : Bool) : (s.keyWrite k b).sp = s.sp := rfl
@[simp] theorem State.keyWrite_stack (s : State) (k : Fin nKeys) (b : Bool) : (s.keyWrite k b).stack = s.stack := rfl
@[simp] theorem State.keyWrite_mem (s : State) (k : Fin nKeys) (b : Bool) : (s.keyWrite k b).mem = s.mem := rfl
@[simp] theorem State.keyWrite_fb (s : State) (k : Fin nKeys) (b : Bool) : (s.keyWrite k b).fb = s.fb := rfl
@[simp] theorem State.keyWrite_dt (s : State) (k : Fin nKeys) (b : Bool) : (s.keyWrite k b).dt = s.dt := rfl
@[simp] theorem State.keyWrite_st (s : State) (k : Fin nKeys) (b : Bool) : (s.keyWrite k b).st = s.st := rfl
@[simp] theorem State.keyWrite_key (s : State) (k : Fin nKeys) (b : Bool) : (s.keyWrite k b).key = s.key.set k.val b k.isLt := rfl
@[simp] theorem State.keyWrite_redraw (s : State) (k : Fin nKeys) (b : Bool) : (s.keyWrite k b).redraw = s.redraw := rfl
@[simp] theorem State.keyWrite_fault (s : State) (k : Fin nKeys) (b : Bool) : (s.keyWrite k b).fault = s.fault := rfl
@[simp] theorem State.keyWrite_draws (s : State) (k : Fin nKeys) (b : Bool) : (s.keyWrite k b).draws = s.draws := rfl

/-! ### `skipIf`: only `pc` can change -/

@[simp] theorem State.skipIf_pc (s : State) (c : Bool) : (s.skipIf c).pc = if c then s.pc + 2 else s.pc := by
  cases c <;> rfl
@[simp] theorem State.skipIf_v (s : State) (c : Bool) : (s.skipIf c).v = s.v := by cases c <;> rfl
@[simp] theorem State.skipIf_i (s : State) (c : Bool) : (s.skipIf c).i = s.i := by cases c <;> rfl
@[simp] theorem State.skipIf_sp (s : State) (c : Bool) : (s.skipIf c).sp = s.sp := by cases c <;> rfl
@[simp] theorem State.skipIf_stack (s : State) (c : Bool) : (s.skipIf c).stack = s.stack := by cases c <;> rfl
@[simp] theorem State.skipIf_mem (s : State) (c : Bool) : (s.skipIf c).mem = s.mem := by cases c <;> rfl
@[simp] theorem State.skipIf_fb (s : State) (c : Bool) : (s.skipIf c).fb = s.fb := by cases c <;> rfl
@[simp] theorem State.skipIf_dt (s : State) (c : Bool) : (s.skipIf c).dt = s.dt := by cases c <;> rfl
@[simp] theorem State.skipIf_st (s : State) (c : Bool) : (s.skipIf c).st = s.st := by cases c <;> rfl
@[simp] theorem State.skipIf_key (s : State) (c : Bool) : (s.skipIf c).key = s.key := by cases c <;> rfl
@[simp] theorem State.skipIf_redraw (s : State) (c : Bool) : (s.skipIf c).redraw = s.redraw := by cases c <;> rfl
@[simp] theorem State.skipIf_fault (s : State) (c : Bool) : (s.skipIf c).fault = s.fault := by cases c <;> rfl
@[simp] theorem State.skipIf_draws (s : State) (c : Bool) : (s.skipIf c).draws = s.draws := by cases c <;> rfl

/-! ### `setFlagThenReg`: only `v` can change -/

@[simp] theorem State.setFlagThenReg_v (s : State) (f : Byte) (x : Reg) (b : Byte) :
    (s.setFlagThenReg f x b).v = ((s.setReg vf f).setReg x b).v := rfl
@[simp] theorem State.setFlagThenReg_i (s : State) (f : Byte) (x : Reg) (b : Byte) :
    (s.setFlagThenReg f x b).i = s.i := rfl
@[simp] theorem State.setFlagThenReg_pc (s : State) (f : Byte) (x : Reg) (b : Byte) :
    (s.setFlagThenReg f x b).pc = s.pc := rfl
@[simp] theorem State.setFlagThenReg_sp (s : State) (f : Byte) (x : Reg) (b : Byte) :
    (s.setFlagThenReg f x b).sp = s.sp := rfl
@[simp] theorem State.setFlagThenReg_stack (s : State) (f : Byte) (x : Reg) (b : Byte) :
    (s.setFlagThenReg f x b).stack = s.stack := rfl
@[simp] theorem State.setFlagThenReg_mem (s : State) (f : Byte) (x : Reg) (b : Byte) :
    (s.setFlagThenReg f x b).mem = s.mem := rfl
@[simp] theorem State.setFlagThenReg_fb (s : State) (f : Byte) (x : Reg) (b : Byte) :
    (s.setFlagThenReg f x b).fb = s.fb := rfl
@[simp] theorem State.setFlagThenReg_dt (s : State) (f : Byte) (x : Reg) (b : Byte) :
    (s.setFlagThenReg f x b).dt = s.dt := rfl
@[simp] theorem State.setFlagThenReg_st (s : State) (f : Byte) (x : Reg) (b : Byte) :
    (s.setFlagThenReg f x b).st = s.st := rfl
@[simp] theorem State.setFlagThenReg_key (s : State) (f : Byte) (x : Reg) (b : Byte) :
    (s.setFlagThenReg f x b).key = s.key := rfl
@[simp] theorem State.setFlagThenReg_redraw (s : State) (f : Byte) (x : Reg) (b : Byte) :
    (s.setFlagThenReg f x b).redraw = s.redraw := rfl
@[simp] theorem State.setFlagThenReg_fault (s : State) (f : Byte) (x : Reg) (b : Byte) :
    (s.setFlagThenReg f x b).fault = s.fault := rfl
@[simp] theorem State.setFlagThenReg_draws (s : State) (f : Byte) (x : Reg) (b : Byte) :
    (s.setFlagThenReg f x b).draws = s.draws := rfl

end Sys2Proof.Machine
end

