-- ==== Sys2Proof/Laws/Ops.lean ====
section
/-! SUPPORT. What each shared operation can do, said once: fetch, call stack, operand checks, keypad scan,
fault codes, the timer count. -/

namespace Sys2Proof.Machine

open Sys2Proof.Config

theorem State.fetch_eq_none_iff (s : State) : s.fetch = none ↔ 4094 < s.pc.toNat := by
  unfold State.fetch
  simp only [memSize]
  split <;> simp <;> omega

theorem State.fetch_of_le {s : State} (h : s.pc.toNat ≤ 4094) :
    s.fetch = some (wordOfBytes (s.mem.read s.pc.toNat) (s.mem.read (s.pc.toNat + 1))) := if_pos h

theorem State.pc_le_of_fetch {s : State} {w : Word} (h : s.fetch = some w) : s.pc.toNat ≤ 4094 := by
  by_contra hlt
  rw [(State.fetch_eq_none_iff s).2 (by omega)] at h
  cases h

/-- A push: the entry and the count, and nothing else. -/
theorem State.push_eq_some_iff (s t : State) (a : Word) :
    s.push a = some t ↔ ∃ h : s.sp.val < stackDepth,
      t = { s with stack := s.stack.set s.sp.val a h, sp := ⟨s.sp.val + 1, Nat.succ_lt_succ h⟩ } := by
  unfold State.push
  split
  · next h => simp [h, eq_comm]
  · next h => simp [h]

theorem State.push_eq_none_iff (s : State) (a : Word) : s.push a = none ↔ s.sp.val = 16 := by
  have hs : s.sp.val < 17 := s.sp.isLt
  unfold State.push
  split
  · next h => simp only [stackDepth] at h; simp; omega
  · next h => simp only [stackDepth] at h; simp; omega

/-- A pop into `pc`: the top entry, the count, and nothing else. -/
theorem State.popPc_eq_some_iff (s t : State) :
    s.popPc = some t ↔ 0 < s.sp.val ∧ ∃ a, s.stack[s.sp.val - 1]? = some a ∧
      ∃ n : Fin (stackDepth + 1), n.val = s.sp.val - 1 ∧ t = { s with pc := a, sp := n } := by
  unfold State.popPc
  have hs := s.sp.isLt
  split
  · next h =>
    have hlt : s.sp.val - 1 < stackDepth := by omega
    rw [Vector.getElem?_eq_getElem hlt]
    constructor
    · intro ht
      cases ht
      exact ⟨h, _, rfl, _, rfl, rfl⟩
    · rintro ⟨-, a, ha, n, hn, rfl⟩
      cases ha
      congr
      exact hn.symm
  · next h => simp [h]

theorem State.popPc_eq_none_iff (s : State) : s.popPc = none ↔ s.sp.val = 0 := by
  unfold State.popPc
  split
  · next h => simp only [reduceCtorEq, false_iff]; omega
  · next h => simp only [true_iff]; omega

theorem jumpTargetOk_iff (nnn : Addr12) : jumpTargetOk nnn = true ↔ 0x200 ≤ nnn.toNat := by
  have := nnn.isLt
  simp only [jumpTargetOk, Bool.and_eq_true, decide_eq_true_eq, progBase, memSize]
  omega

theorem dataRangeOk_iff (base n : Nat) : dataRangeOk base n = true ↔ n = 0 ∨ base + n ≤ memSize := by
  simp only [dataRangeOk, Bool.or_eq_true, beq_iff_eq, decide_eq_true_eq, memSize]
  omega

@[simp] theorem toNat_addrWord (nnn : Addr12) : (addrWord nnn).toNat = nnn.toNat := by
  have := nnn.isLt
  simp only [addrWord, BitVec.toNat_setWidth]
  omega

@[simp] theorem toNat_byteWord (b : Byte) : (byteWord b).toNat = b.toNat := by
  have := b.isLt
  simp only [byteWord, BitVec.toNat_setWidth]
  omega

theorem toNat_and_0F (b : Byte) : (b &&& 0x0F).toNat = b.toNat % 16 := by
  rw [BitVec.toNat_and]
  exact Nat.and_two_pow_sub_one_eq_mod b.toNat 4

@[simp] theorem val_keyIndex (b : Byte) : (keyIndex b).val = b.toNat % 16 := by
  simp only [keyIndex, toNat_and_0F, Fin.val_ofNat, nKeys, Nat.mod_mod]

theorem toNat_glyphAddr (b : Byte) : (glyphAddr b).toNat = 0x50 + 5 * (b.toNat % 16) := by
  simp only [glyphAddr, toNat_and_0F, BitVec.toNat_ofNat, glyphBase, glyphBytes]
  omega

/-- The scan order of `LD Vx, K` is every key once, ascending. -/
theorem keyOrder : ([0, 1, 2, 3, 4, 5, 6, 7, 8, 9, 10, 11, 12, 13, 14, 15] : List (Fin nKeys)) = List.finRange 16 := by decide

/-- The scan finds the lowest pressed key. -/
theorem State.firstKey_eq_some_iff (s : State) (k : Fin nKeys) :
    s.firstKey = some k ↔ s.keyDown k = true ∧ ∀ j, j < k → s.keyDown j = false := by
  unfold State.firstKey
  rw [keyOrder, List.find?_eq_some_iff_getElem]
  constructor
  · rintro ⟨hk, i, hi, rfl, hj⟩
    refine ⟨hk, fun j hjlt => ?_⟩
    have hji : j.val < i := by simpa [Fin.lt_def] using hjlt
    simpa using hj j.val hji
  · rintro ⟨hk, hj⟩
    refine ⟨hk, k.val, by simp, by simp, fun j hjlt => ?_⟩
    simpa using hj ⟨j, lt_trans hjlt k.isLt⟩ hjlt

/-- The scan finds nothing iff no key is pressed. -/
theorem State.firstKey_eq_none_iff (s : State) : s.firstKey = none ↔ ∀ k, s.keyDown k = false := by
  unfold State.firstKey
  rw [keyOrder, List.find?_eq_none]
  simp

@[simp] theorem length_bcdDigits (b : Byte) : (bcdDigits b).length = 3 := rfl

/-- Codes and kinds correspond one to one (R220). -/
theorem FaultKind.ofCode_eq_some_iff (n : Nat) (k : FaultKind) : FaultKind.ofCode n = some k ↔ k.code = n := by
  constructor
  · unfold FaultKind.ofCode
    split <;> rintro ⟨⟩ <;> rfl
  · rintro rfl
    cases k <;> rfl

/-- A tick saturates at 0. -/
theorem toNat_countDown (b : Byte) : (countDown b).toNat = b.toNat - 1 := by
  have := b.isLt
  unfold countDown
  split
  · rw [BitVec.toNat_sub, show (1 : BitVec 8).toNat = 1 from rfl]
    omega
  · omega

end Sys2Proof.Machine
end

