-- ==== Sys2Proof/Laws/PerInstr.lean ====
section
/-! SUPPORT. Laws per instruction. `FixedBits`: the instruction's row stands in the opcode table, and its encoded word matches that
row's match under the row's mask (`30_encoding.md` R105). -/

namespace Sys2Proof.Laws

open Sys2Proof

/-- Every instruction's row is one of the 34. -/
theorem row_mem_opcodeRows (i : Instr) : i.row ∈ opcodeRows := by
  cases i <;> simp [Instr.row, opcodeRows, rowsClass0to7, rowsClass8to9, rowsClassAtoF]

/-- The row of `i` is one of the 34, and the word of `i` matches it. -/
def FixedBits.Statement (i : Instr) : Prop := i.row ∈ opcodeRows ∧ i.row.matchesWord (encode i) = true

theorem FixedBits.cls : FixedBits.Statement .cls :=
  ⟨row_mem_opcodeRows _, rfl⟩

theorem FixedBits.ret : FixedBits.Statement .ret :=
  ⟨row_mem_opcodeRows _, rfl⟩

theorem FixedBits.jpAddr (nnn : Addr12) : FixedBits.Statement (.jpAddr nnn) :=
  ⟨row_mem_opcodeRows _, beq_iff_eq.2 (formatA_and 0x1 nnn)⟩

theorem FixedBits.callAddr (nnn : Addr12) : FixedBits.Statement (.callAddr nnn) :=
  ⟨row_mem_opcodeRows _, beq_iff_eq.2 (formatA_and 0x2 nnn)⟩

theorem FixedBits.seByte (x : Reg) (nn : Byte) : FixedBits.Statement (.seByte x nn) :=
  ⟨row_mem_opcodeRows _, beq_iff_eq.2 ((formatXI_and 0x3 x nn 0).trans (by rw [show nn &&& (0 : Byte) = 0 from BitVec.and_zero]; rfl))⟩

theorem FixedBits.sneByte (x : Reg) (nn : Byte) : FixedBits.Statement (.sneByte x nn) :=
  ⟨row_mem_opcodeRows _, beq_iff_eq.2 ((formatXI_and 0x4 x nn 0).trans (by rw [show nn &&& (0 : Byte) = 0 from BitVec.and_zero]; rfl))⟩

theorem FixedBits.seReg (x : Reg) (y : Reg) : FixedBits.Statement (.seReg x y) :=
  ⟨row_mem_opcodeRows _, beq_iff_eq.2 (formatXYN_and 0x5 x y 0x0 0xF)⟩

theorem FixedBits.ldByte (x : Reg) (nn : Byte) : FixedBits.Statement (.ldByte x nn) :=
  ⟨row_mem_opcodeRows _, beq_iff_eq.2 ((formatXI_and 0x6 x nn 0).trans (by rw [show nn &&& (0 : Byte) = 0 from BitVec.and_zero]; rfl))⟩

theorem FixedBits.addByte (x : Reg) (nn : Byte) : FixedBits.Statement (.addByte x nn) :=
  ⟨row_mem_opcodeRows _, beq_iff_eq.2 ((formatXI_and 0x7 x nn 0).trans (by rw [show nn &&& (0 : Byte) = 0 from BitVec.and_zero]; rfl))⟩

theorem FixedBits.ldReg (x : Reg) (y : Reg) : FixedBits.Statement (.ldReg x y) :=
  ⟨row_mem_opcodeRows _, beq_iff_eq.2 (formatXYN_and 0x8 x y 0x0 0xF)⟩

theorem FixedBits.orReg (x : Reg) (y : Reg) : FixedBits.Statement (.orReg x y) :=
  ⟨row_mem_opcodeRows _, beq_iff_eq.2 (formatXYN_and 0x8 x y 0x1 0xF)⟩

theorem FixedBits.andReg (x : Reg) (y : Reg) : FixedBits.Statement (.andReg x y) :=
  ⟨row_mem_opcodeRows _, beq_iff_eq.2 (formatXYN_and 0x8 x y 0x2 0xF)⟩

theorem FixedBits.xorReg (x : Reg) (y : Reg) : FixedBits.Statement (.xorReg x y) :=
  ⟨row_mem_opcodeRows _, beq_iff_eq.2 (formatXYN_and 0x8 x y 0x3 0xF)⟩

theorem FixedBits.addReg (x : Reg) (y : Reg) : FixedBits.Statement (.addReg x y) :=
  ⟨row_mem_opcodeRows _, beq_iff_eq.2 (formatXYN_and 0x8 x y 0x4 0xF)⟩

theorem FixedBits.subReg (x : Reg) (y : Reg) : FixedBits.Statement (.subReg x y) :=
  ⟨row_mem_opcodeRows _, beq_iff_eq.2 (formatXYN_and 0x8 x y 0x5 0xF)⟩

theorem FixedBits.shr (x : Reg) (y : Reg) : FixedBits.Statement (.shr x y) :=
  ⟨row_mem_opcodeRows _, beq_iff_eq.2 (formatXYN_and 0x8 x y 0x6 0xF)⟩

theorem FixedBits.subnReg (x : Reg) (y : Reg) : FixedBits.Statement (.subnReg x y) :=
  ⟨row_mem_opcodeRows _, beq_iff_eq.2 (formatXYN_and 0x8 x y 0x7 0xF)⟩

theorem FixedBits.shl (x : Reg) (y : Reg) : FixedBits.Statement (.shl x y) :=
  ⟨row_mem_opcodeRows _, beq_iff_eq.2 (formatXYN_and 0x8 x y 0xE 0xF)⟩

theorem FixedBits.sneReg (x : Reg) (y : Reg) : FixedBits.Statement (.sneReg x y) :=
  ⟨row_mem_opcodeRows _, beq_iff_eq.2 (formatXYN_and 0x9 x y 0x0 0xF)⟩

theorem FixedBits.ldI (nnn : Addr12) : FixedBits.Statement (.ldI nnn) :=
  ⟨row_mem_opcodeRows _, beq_iff_eq.2 (formatA_and 0xA nnn)⟩

theorem FixedBits.jpV0 (nnn : Addr12) : FixedBits.Statement (.jpV0 nnn) :=
  ⟨row_mem_opcodeRows _, beq_iff_eq.2 (formatA_and 0xB nnn)⟩

theorem FixedBits.rnd (x : Reg) (nn : Byte) : FixedBits.Statement (.rnd x nn) :=
  ⟨row_mem_opcodeRows _, beq_iff_eq.2 ((formatXI_and 0xC x nn 0).trans (by rw [show nn &&& (0 : Byte) = 0 from BitVec.and_zero]; rfl))⟩

theorem FixedBits.drw (x : Reg) (y : Reg) (n : Nibble) : FixedBits.Statement (.drw x y n) :=
  ⟨row_mem_opcodeRows _, beq_iff_eq.2 ((formatXYN_and 0xD x y n 0).trans (by rw [show n &&& (0 : Nibble) = 0 from BitVec.and_zero]; rfl))⟩

theorem FixedBits.skp (x : Reg) : FixedBits.Statement (.skp x) :=
  ⟨row_mem_opcodeRows _, beq_iff_eq.2 (formatXI_and 0xE x 0x9E 0xFF)⟩

theorem FixedBits.sknp (x : Reg) : FixedBits.Statement (.sknp x) :=
  ⟨row_mem_opcodeRows _, beq_iff_eq.2 (formatXI_and 0xE x 0xA1 0xFF)⟩

theorem FixedBits.ldVxDt (x : Reg) : FixedBits.Statement (.ldVxDt x) :=
  ⟨row_mem_opcodeRows _, beq_iff_eq.2 (formatXI_and 0xF x 0x07 0xFF)⟩

theorem FixedBits.ldVxK (x : Reg) : FixedBits.Statement (.ldVxK x) :=
  ⟨row_mem_opcodeRows _, beq_iff_eq.2 (formatXI_and 0xF x 0x0A 0xFF)⟩

theorem FixedBits.ldDtVx (x : Reg) : FixedBits.Statement (.ldDtVx x) :=
  ⟨row_mem_opcodeRows _, beq_iff_eq.2 (formatXI_and 0xF x 0x15 0xFF)⟩

theorem FixedBits.ldStVx (x : Reg) : FixedBits.Statement (.ldStVx x) :=
  ⟨row_mem_opcodeRows _, beq_iff_eq.2 (formatXI_and 0xF x 0x18 0xFF)⟩

theorem FixedBits.addI (x : Reg) : FixedBits.Statement (.addI x) :=
  ⟨row_mem_opcodeRows _, beq_iff_eq.2 (formatXI_and 0xF x 0x1E 0xFF)⟩

theorem FixedBits.ldF (x : Reg) : FixedBits.Statement (.ldF x) :=
  ⟨row_mem_opcodeRows _, beq_iff_eq.2 (formatXI_and 0xF x 0x29 0xFF)⟩

theorem FixedBits.ldB (x : Reg) : FixedBits.Statement (.ldB x) :=
  ⟨row_mem_opcodeRows _, beq_iff_eq.2 (formatXI_and 0xF x 0x33 0xFF)⟩

theorem FixedBits.ldMemVx (x : Reg) : FixedBits.Statement (.ldMemVx x) :=
  ⟨row_mem_opcodeRows _, beq_iff_eq.2 (formatXI_and 0xF x 0x55 0xFF)⟩

theorem FixedBits.ldVxMem (x : Reg) : FixedBits.Statement (.ldVxMem x) :=
  ⟨row_mem_opcodeRows _, beq_iff_eq.2 (formatXI_and 0xF x 0x65 0xFF)⟩

end Sys2Proof.Laws
end

