-- ==== Sys2Proof/Laws/Screen.lean ====
section
/-! SUPPORT. The cells that `DRW` toggles, in the terms of the claims: exactly those its sprite covers, each once. -/

namespace Sys2Proof.Machine

open Sys2Proof.Config

theorem State.mem_spriteCells (s : State) (x y : Reg) (n : Nibble) (p : Pixel) :
    p ∈ s.spriteCells x y n ↔ SpriteCovers s x y n p := by
  unfold State.spriteCells SpriteCovers
  rw [mem_spritePixels]
  constructor
  · rintro ⟨k, col, hk, h8, hb, rfl⟩
    refine ⟨k, col, by simpa [State.spriteRows] using hk, h8, ?_, rfl, by simp [spritePixel]⟩
    rw [← hb]
    congr 1
    exact (Memory.getElem_readBytes _ _ _ _ hk).symm
  · rintro ⟨k, col, hk, h8, hb, h1, h2⟩
    refine ⟨k, col, by simpa [State.spriteRows] using hk, h8, ?_, ?_⟩
    · rw [← hb]
      congr 1
      exact Memory.getElem_readBytes _ _ _ _ (by simpa using hk)
    · refine Prod.ext (Fin.ext ?_) (Fin.ext ?_)
      · rw [h1]; rfl
      · rw [h2]; simp [spritePixel]

theorem State.nodup_spriteCells (s : State) (x y : Reg) (n : Nibble) : (s.spriteCells x y n).Nodup := by
  refine nodup_spritePixels _ _ _ _ ?_
  have := n.isLt
  simp only [State.spriteRows, Memory.length_readBytes, fbH]
  omega

end Sys2Proof.Machine
end

