-- ==== Sys2Proof/Tests/Slice0.lean ====
section
/-! SUPPORT. Tests. Every expected value is from `95_test_vectors.md` (the vector's number stands in the comment), from a worked
example of the instruction's rule, or from the encoding table R105. Each test runs one step from a small state. -/

namespace Sys2Proof.Tests

open Sys2Proof Sys2Proof.Machine Sys2Proof.Config

/-! ### Helpers -/

/-- The state after reset with some general registers set. -/
def withRegs (l : List (Nat × Byte)) : State :=
  { State.reset with v := l.foldl (fun v p => v.setIfInBounds p.1 p.2) State.reset.v }

/-- The state with bytes stored from an address. -/
def store (s : State) (a : Nat) (bs : List Byte) : State := { s with mem := s.mem.storeBytes a bs }

/-- The state with a word placed at an address and `pc` there. -/
def at_ (s : State) (a : Nat) (w : Word) : State := { store s a (bytesOfWord w) with pc := BitVec.ofNat 16 a }

/-- Some fields of the state after one step. -/
def after {α : Type} (s : State) (f : State → α) : Option α :=
  match step s with
  | .next t => some (f t)
  | .fault _ => none
  | .refused _ => none

/-- One cell of the framebuffer. -/
def cell (s : State) (x y : Nat) : Bool := s.fb.pixel (Fin.ofNat fbW x, Fin.ofNat fbH y)

/-- The state with one cell lit. -/
def withLit (s : State) (x y : Nat) : State := { s with fb := s.fb.setPixel (Fin.ofNat fbW x, Fin.ofNat fbH y) true }

/-- The state with some keys pressed. -/
def withKeys (s : State) (l : List Nat) : State := { s with key := l.foldl (fun v k => v.setIfInBounds k true) s.key }

/-- The state with `sp` at a depth and one call-stack entry set. -/
def withStack (s : State) (n : Fin 17) (j : Nat) (a : Word) : State := { s with sp := n, stack := s.stack.setIfInBounds j a }

/-! ### Well-formedness: an ill-formed word for each check (R95 to R99, T1.6 to T1.13) -/

theorem test_illformed_class0_zero : legalWord 0x0000 = false := by decide
theorem test_illformed_class0_high : legalWord 0x01E0 = false := by decide
theorem test_illformed_class0_call : legalWord 0x0123 = false := by decide
theorem test_illformed_class5_nibble : legalWord 0x5341 = false := by decide
theorem test_illformed_class8_sub : legalWord 0x8128 = false := by decide
theorem test_illformed_class9_nibble : legalWord 0x9341 = false := by decide
theorem test_illformed_classE_low : legalWord 0xE19F = false := by decide
theorem test_illformed_classF_low : legalWord 0xF1FF = false := by decide
theorem test_wellformed_words : legalWord 0x00E0 = true ∧ legalWord 0x83F6 = true ∧ legalWord 0xFF65 = true := by decide

/-- The decoder rejects the same words, each by its class. -/
theorem test_rejects_by_name : decodeWord 0x01E0 = .error .class0 ∧ decodeWord 0x5341 = .error .class5 ∧
    decodeWord 0x8128 = .error .class8 ∧ decodeWord 0x9341 = .error .class9 ∧ decodeWord 0xE19F = .error .classE ∧
    decodeWord 0xF1FF = .error .classF ∧ decodeBytes [0x6A] = .error .truncated := by decide

/-! ### Decoding: a word for every constructor, bits from R105 (class, X, Y, then the low nibble) -/

theorem test_decode_class0 : decodeWord 0b0000000011100000 = .ok .cls ∧ decodeWord 0b0000000011101110 = .ok .ret := by decide

theorem test_decode_addresses : decodeWord 0b0001001000000100 = .ok (.jpAddr 0x204) ∧
    decodeWord 0b0010001000010000 = .ok (.callAddr 0x210) ∧ decodeWord 0b1010001000000010 = .ok (.ldI 0x202) ∧
    decodeWord 0b1011001100000000 = .ok (.jpV0 0x300) := by decide

theorem test_decode_immediates : decodeWord 0b0011000100000000 = .ok (.seByte 1 0x00) ∧
    decodeWord 0b0100001000001000 = .ok (.sneByte 2 0x08) ∧ decodeWord 0b0110101000000101 = .ok (.ldByte 0xA 0x05) ∧
    decodeWord 0b0111000100000011 = .ok (.addByte 1 0x03) ∧ decodeWord 0b1100001100001111 = .ok (.rnd 3 0x0F) := by decide

theorem test_decode_register_skips : decodeWord 0b0101001101000000 = .ok (.seReg 3 4) ∧
    decodeWord 0b1001001101000000 = .ok (.sneReg 3 4) := by decide

theorem test_decode_class8 : decodeWord 0b1000000100100000 = .ok (.ldReg 1 2) ∧ decodeWord 0b1000000100100001 = .ok (.orReg 1 2) ∧
    decodeWord 0b1000000100100010 = .ok (.andReg 1 2) ∧ decodeWord 0b1000000100100011 = .ok (.xorReg 1 2) ∧
    decodeWord 0b1000000000010100 = .ok (.addReg 0 1) ∧ decodeWord 0b1000000000010101 = .ok (.subReg 0 1) ∧
    decodeWord 0b1000001111110110 = .ok (.shr 3 15) ∧ decodeWord 0b1000000000010111 = .ok (.subnReg 0 1) ∧
    decodeWord 0b1000001100001110 = .ok (.shl 3 0) := by decide

theorem test_decode_draw : decodeWord 0b1101000000010101 = .ok (.drw 0 1 5) := by decide

theorem test_decode_classE : decodeWord 0b1110010010011110 = .ok (.skp 4) ∧ decodeWord 0b1110010010100001 = .ok (.sknp 4) := by decide

theorem test_decode_classF : decodeWord 0b1111001100000111 = .ok (.ldVxDt 3) ∧ decodeWord 0b1111010100001010 = .ok (.ldVxK 5) ∧
    decodeWord 0b1111001100010101 = .ok (.ldDtVx 3) ∧ decodeWord 0b1111001100011000 = .ok (.ldStVx 3) ∧
    decodeWord 0b1111001000011110 = .ok (.addI 2) ∧ decodeWord 0b1111000000101001 = .ok (.ldF 0) ∧
    decodeWord 0b1111000000110011 = .ok (.ldB 0) ∧ decodeWord 0b1111001001010101 = .ok (.ldMemVx 2) ∧
    decodeWord 0b1111001001100101 = .ok (.ldVxMem 2) := by decide

theorem test_table_words : decodeTableWord 16 0x6A05 = some (.ldByte 0xA 0x05) ∧ decodeTableWord 16 0x0000 = none := by decide

theorem test_fetch_word_runs : after (State.reset.withFetchWord 16 0x6A05) (fun t => (t.reg 10, t.pc)) = some (0x05, 0x202) := by decide

theorem test_core : core.reset = State.reset := rfl

/-! ### The step (T1) -/

theorem test_odd_address : after (at_ State.reset 0x201 0x6A05) (fun t => (t.reg 10, t.pc)) = some (5, 0x203) := by decide   -- T1.1
theorem test_last_window : after (at_ State.reset 4094 0x6001) (fun t => (t.reg 0, t.pc)) = some (1, 4096) := by decide   -- T1.2
theorem test_fetch_fault : after { State.reset with pc := 4095, redraw := true } (fun t => (t.fault, t.pc, t.redraw)) =
    some (some ⟨.fetchOutOfBounds, 4095, none⟩, 4095, true) := by decide   -- T1.4
theorem test_skip_past_end : after (at_ State.reset 4094 0x3000) (fun t => (t.pc, t.fault)) = some (4098, none) := by decide   -- T1.5
theorem test_illegal_zero : after { State.reset with redraw := true } (fun t => (t.fault, t.pc, t.redraw)) =
    some (some ⟨.illegalOpcode, 0x200, some 0x0000⟩, 0x202, false) := by decide   -- T1.6
theorem test_faulted_step_is_idle : after { at_ State.reset 0x200 0x6A05 with fault := some ⟨.stackOverflow, 0x200, some 0x2200⟩ }
    (fun t => (t.reg 10, t.pc)) = some (0, 0x200) := by decide   -- T1.15

/-! ### Screen and control flow (T2, T3, T5, T6) -/

theorem test_cls : after (withLit (at_ State.reset 0x200 0x00E0) 5 3) (fun t => (cell t 5 3, t.redraw, t.pc)) =
    some (false, true, 0x202) := by decide   -- T2.1
theorem test_ret : after (withStack (at_ State.reset 0x212 0x00EE) 1 0 0x206) (fun t => (t.sp, t.pc)) = some (0, 0x206) := by decide   -- T2.3
theorem test_ret_underflow : after (at_ State.reset 0x200 0x00EE) (fun t => (t.fault, t.sp, t.pc)) =
    some (some ⟨.stackUnderflow, 0x200, some 0x00EE⟩, 0, 0x202) := by decide   -- T2.4
theorem test_jp_lowest : after (at_ State.reset 0x300 0x1200) (fun t => (t.pc, t.fault)) = some (0x200, none) := by decide   -- T2.5
theorem test_jp_below : after (at_ State.reset 0x200 0x11FF) (fun t => (t.fault, t.pc)) =
    some (some ⟨.illegalJumpTarget, 0x200, some 0x11FF⟩, 0x202) := by decide   -- T2.6
theorem test_call_last : after (withStack (at_ State.reset 0x200 0x2300) 15 0 0) (fun t => (t.stack[15], t.sp, t.pc)) =
    some (0x202, 16, 0x300) := by decide   -- T2.10
theorem test_call_overflow_first : after (withStack (at_ State.reset 0x200 0x2100) 16 0 0) (fun t => (t.fault, t.sp, t.pc)) =
    some (some ⟨.stackOverflow, 0x200, some 0x2100⟩, 16, 0x202) := by decide   -- T2.13
theorem test_se_byte_not : after (at_ (withRegs [(1, 3)]) 0x208 0x3100) (·.pc) = some 0x20A := by decide   -- T3.2
theorem test_sne_byte : after (at_ (withRegs [(2, 7)]) 0x300 0x4208) (·.pc) = some 0x304 := by decide   -- T3.3
theorem test_sne_byte_not : after (at_ (withRegs [(2, 8)]) 0x300 0x4208) (·.pc) = some 0x302 := by decide   -- T3.4
theorem test_se_reg : after (at_ (withRegs [(3, 0x42), (4, 0x42)]) 0x220 0x5340) (·.pc) = some 0x224 := by decide   -- T3.5
theorem test_se_reg_not : after (at_ (withRegs [(3, 1), (4, 2)]) 0x220 0x5340) (·.pc) = some 0x222 := by decide   -- T3.6
theorem test_sne_reg : after (at_ (withRegs [(3, 1), (4, 2)]) 0x220 0x9340) (·.pc) = some 0x224 := by decide   -- T3.7
theorem test_sne_reg_not : after (at_ (withRegs [(3, 2), (4, 2)]) 0x220 0x9340) (·.pc) = some 0x222 := by decide   -- T3.8
theorem test_jp_v0 : after (at_ (withRegs [(0, 4)]) 0x200 0xB300) (·.pc) = some 0x304 := by decide   -- T5.3
theorem test_jp_v0_top : after (at_ (withRegs [(0, 0xFF)]) 0x200 0xBFFF) (fun t => (t.pc, t.fault)) = some (0x10FE, none) := by decide   -- T5.4
theorem test_skp_masked : after (withKeys (at_ (withRegs [(4, 0x1A)]) 0x230 0xE49E) [0xA]) (·.pc) = some 0x234 := by decide   -- T6.3
theorem test_skp_not : after (at_ (withRegs [(4, 5)]) 0x230 0xE49E) (·.pc) = some 0x232 := by decide   -- T6.2
theorem test_sknp_pressed : after (withKeys (at_ (withRegs [(4, 5)]) 0x230 0xE4A1) [5]) (·.pc) = some 0x232 := by decide   -- T6.4
theorem test_sknp : after (at_ (withRegs [(4, 5)]) 0x230 0xE4A1) (·.pc) = some 0x234 := by decide   -- T6.5
theorem test_ld_k_lowest : after (withKeys (at_ State.reset 0x240 0xF50A) [9, 3]) (fun t => (t.reg 5, t.pc)) = some (3, 0x242) := by
  decide   -- T6.6
theorem test_ld_k_waits : after (at_ (withRegs [(5, 7)]) 0x240 0xF50A) (fun t => (t.reg 5, t.pc)) = some (7, 0x240) := by decide   -- T6.7

/-! ### Immediates, class 8, random (T3, T4, T5) -/

theorem test_ld_byte : after (at_ State.reset 0x200 0x6FFF) (·.reg 15) = some 0xFF := by decide   -- T3.12
theorem test_add_byte : after (at_ (withRegs [(1, 0xFE), (15, 1)]) 0x200 0x7103) (fun t => (t.reg 1, t.reg 15)) = some (1, 1) := by
  decide   -- T3.13
theorem test_ld_reg : after (at_ (withRegs [(2, 0x7C)]) 0x200 0x8120) (·.reg 1) = some 0x7C := by decide   -- T4.1
theorem test_or : after (at_ (withRegs [(1, 0xF0), (2, 0x0F), (15, 7)]) 0x200 0x8121) (fun t => (t.reg 1, t.reg 15)) = some (0xFF, 7) := by
  decide   -- T4.2
theorem test_and : after (at_ (withRegs [(1, 0xF0), (2, 0x3C)]) 0x200 0x8122) (·.reg 1) = some 0x30 := by decide   -- T4.3
theorem test_xor : after (at_ (withRegs [(1, 0xF0), (2, 0x3C)]) 0x200 0x8123) (·.reg 1) = some 0xCC := by decide   -- T4.4
theorem test_add_carry : after (at_ (withRegs [(0, 200), (1, 100)]) 0x200 0x8014) (fun t => (t.reg 0, t.reg 15)) = some (0x2C, 1) := by
  decide   -- T4.6
theorem test_add_into_vf : after (at_ (withRegs [(15, 0xF0), (1, 0x20)]) 0x200 0x8F14) (·.reg 15) = some 0x10 := by decide   -- T4.11
theorem test_sub_borrow : after (at_ (withRegs [(0, 5), (1, 7)]) 0x200 0x8015) (fun t => (t.reg 0, t.reg 15)) = some (0xFE, 0) := by
  decide   -- T4.13
theorem test_sub_equal : after (at_ (withRegs [(0, 7), (1, 7)]) 0x200 0x8015) (fun t => (t.reg 0, t.reg 15)) = some (0, 1) := by
  decide   -- T4.15
theorem test_subn : after (at_ (withRegs [(0, 5), (1, 7)]) 0x200 0x8017) (fun t => (t.reg 0, t.reg 15)) = some (2, 1) := by decide   -- T4.17
theorem test_subn_borrow : after (at_ (withRegs [(0, 7), (1, 5)]) 0x200 0x8017) (fun t => (t.reg 0, t.reg 15)) = some (0xFE, 0) := by
  decide   -- T4.18
theorem test_shr_ignores_y : after (at_ (withRegs [(3, 0x04), (5, 0xFF)]) 0x200 0x8356) (fun t => (t.reg 3, t.reg 15, t.reg 5)) =
    some (2, 0, 0xFF) := by decide   -- T4.27
theorem test_shr_vf : after (at_ (withRegs [(15, 0x05)]) 0x200 0x8F06) (·.reg 15) = some 2 := by decide   -- T4.23
theorem test_shl : after (at_ (withRegs [(3, 0x81)]) 0x200 0x830E) (fun t => (t.reg 3, t.reg 15)) = some (2, 1) := by decide   -- T4.24
theorem test_shl_no_carry : after (at_ (withRegs [(3, 0x7F), (15, 1)]) 0x200 0x830E) (fun t => (t.reg 3, t.reg 15)) = some (0xFE, 0) := by
  decide   -- T4.25
theorem test_rnd_advances : after (at_ (withRegs [(3, 9)]) 0x200 0xC300) (fun t => (t.pc, t.draws)) = some (0x202, 1) := by decide   -- T5.8

/-! ### Draw (T7) -/

theorem test_draw_wraps : after (at_ { store (withRegs [(0, 0xFF), (1, 0xFF)]) 0x300 [0xFF] with i := 0x300 } 0x200 0xD011)
    (fun t => ([cell t 62 31, cell t 63 31, cell t 0 31, cell t 6 31, cell t 7 31, cell t 0 0], t.reg 15, t.redraw)) =
    some ([false, true, true, true, false, false], 0, true) := by decide   -- T7.3
theorem test_draw_collision : after (withLit (at_ { store (withRegs [(0, 2), (1, 1)]) 0x300 [0xC0] with i := 0x300 } 0x200 0xD011) 3 1)
    (fun t => ([cell t 1 1, cell t 2 1, cell t 3 1, cell t 4 1], t.reg 15)) = some ([false, true, false, false], 1) := by
  decide   -- T7.5

/-! ### Index register, timers, transfers (T5, T8, T9) -/

theorem test_ld_i : after (at_ State.reset 0x200 0xA050) (·.i) = some 0x0050 := by decide   -- T5.2
theorem test_add_i : after (at_ { withRegs [(2, 0x20), (15, 1)] with i := 0x0FF0 } 0x200 0xF21E) (fun t => (t.i, t.reg 15)) =
    some (0x1010, 1) := by decide   -- T9.1
theorem test_add_i_wraps : after (at_ { withRegs [(2, 2)] with i := 0xFFFF } 0x200 0xF21E) (·.i) = some 0x0001 := by decide   -- T9.2
theorem test_ld_f : after (at_ (withRegs [(0, 0x1A)]) 0x200 0xF029) (·.i) = some 0x082 := by decide   -- T9.4
theorem test_ld_vx_dt : after (at_ { State.reset with dt := 42 } 0x200 0xF307) (fun t => (t.reg 3, t.dt)) = some (0x2A, 42) := by
  decide   -- T8.1
theorem test_ld_dt_vx : after (at_ (withRegs [(3, 0x3C)]) 0x200 0xF315) (fun t => (t.dt, t.st)) = some (60, 0) := by decide   -- T8.2
theorem test_ld_st_vx : after (at_ (withRegs [(3, 5)]) 0x200 0xF318) (fun t => (t.st, t.dt)) = some (5, 0) := by decide   -- T8.3
theorem test_ld_b : after (at_ { withRegs [(0, 254)] with i := 0x300 } 0x200 0xF033) (fun t => t.mem.readBytes 0x300 4) =
    some [2, 5, 4, 0] := by decide   -- T9.6
theorem test_ld_b_outside : after (at_ { withRegs [(0, 7)] with i := 0xFFE } 0x200 0xF033) (fun t => (t.fault, t.mem.read 0xFFF)) =
    some (some ⟨.dataOutOfBounds, 0x200, some 0xF033⟩, 0) := by decide   -- T9.8
theorem test_store_regs : after (at_ { withRegs [(0, 0x11), (1, 0x22), (2, 0x33), (3, 0x44)] with i := 0x400 } 0x200 0xF255)
    (fun t => (t.mem.readBytes 0x400 4, t.i)) = some ([0x11, 0x22, 0x33, 0], 0x400) := by decide   -- T9.9
theorem test_store_regs_top : after (at_ { withRegs [(0, 1), (15, 0xAB)] with i := 0xFF0 } 0x200 0xFF55)
    (fun t => (t.mem.read 0xFF0, t.mem.read 0xFF1, t.mem.read 0xFFF)) = some (1, 0, 0xAB) := by decide   -- T9.10
theorem test_load_regs : after (at_ { store (withRegs [(3, 9)]) 0x300 [2, 5, 4, 7] with i := 0x300 } 0x200 0xF265)
    (fun t => ((t.reg 0, t.reg 1), (t.reg 2, t.reg 3), t.i)) = some ((2, 5), (4, 9), 0x300) := by decide   -- T9.12
theorem test_load_regs_outside : after (at_ { State.reset with i := 0x1000 } 0x200 0xF065) (·.fault) =
    some (some ⟨.dataOutOfBounds, 0x200, some 0xF065⟩) := by decide   -- T9.14

/-! ### Host operations (T8, T10) -/

theorem test_tick : ({ State.reset with dt := 2, st := 1 }.tick.dt, { State.reset with dt := 2, st := 1 }.tick.st) = (1, 0) := by
  decide   -- T8.4
theorem test_tick_at_zero : State.reset.tick = State.reset := by decide   -- T8.6
theorem test_fault_codes : [FaultKind.fetchOutOfBounds, .stackOverflow, .stackUnderflow, .illegalJumpTarget, .illegalOpcode,
    .dataOutOfBounds].map FaultKind.code = [1, 2, 3, 4, 5, 6] := by decide   -- R220, column "code"
theorem test_fault_code_read : after (at_ State.reset 0x200 0x00EE) State.faultCodeRead = some (some 3) ∧
    State.reset.faultCodeRead = none := by decide   -- R220, R242
theorem test_reset_glyph_edges : (State.reset.mem.read 0x04F, State.reset.mem.read 0x050, State.reset.mem.read 0x09F,
    State.reset.mem.read 0x0A0) = (0, 0xF0, 0x80, 0) := by decide   -- T10.1
theorem test_load : (State.reset.load [0x12, 0x00]).mem.readBytes 0x200 2 = [0x12, 0x00] := by decide   -- T10.2
theorem test_write_back_removes_cell : ((State.reset.mem.write 0x300 7).write 0x300 0) = State.reset.mem := by decide

/-! ### Witnesses: for every obligation with hypotheses, a state and operands that meet all of them (one for each clause, at a
boundary of its range) -/

/-- The state an instruction leaves, where it answers a next one. -/
def result (i : Instr) (s : State) : State :=
  match exec i s with
  | .next t => t
  | .fault _ => s
  | .refused _ => s

/-- The state one step leaves, where it answers a next one. -/
def stepped (s : State) : State :=
  match step s with
  | .next t => t
  | .fault _ => s
  | .refused _ => s

/-- Reset with `I` set. -/
def withI (a : Word) : State := { State.reset with i := a }

theorem witness_RetPopsIntoPcOrUnderflows :
    0 < (withStack State.reset 16 15 0x206).sp.val ∧ 0 < (withStack State.reset 1 0 0x206).sp.val ∧ State.reset.sp.val = 0 := by
  decide

theorem witness_JpSetsPcOrRejectsTarget :
    0x200 ≤ (0x200 : Addr12).toNat ∧ 0x200 ≤ (0xFFF : Addr12).toNat ∧ (0x1FF : Addr12).toNat < 0x200 := by decide

theorem witness_CallPushesReturnAddressAndJumps :
    ((withStack State.reset 15 0 0).sp.val < 16 ∧ 0x200 ≤ (0x200 : Addr12).toNat) ∧ (withStack State.reset 16 0 0).sp.val = 16 ∧
    (State.reset.sp.val < 16 ∧ (0x1FF : Addr12).toNat < 0x200) := by decide

theorem witness_CallThenRetReturns : ∃ (nnn : Addr12) (s t u : State) (a : Word) (b : Bool),
    s.sp.val < 16 ∧ 0x200 ≤ nnn.toNat ∧ exec (.callAddr nnn) s = .next t ∧
    exec .ret { t with pc := a, redraw := b } = .next u :=
  ⟨0x300, withStack State.reset 15 0 0, result (.callAddr 0x300) (withStack State.reset 15 0 0),
    result .ret { result (.callAddr 0x300) (withStack State.reset 15 0 0) with pc := 0x302, redraw := false }, 0x302, false,
    by decide, by decide, rfl, rfl⟩

theorem witness_RegisterSkipsFollowComparison : (1 : Nibble) ≠ 0 ∧ (15 : Nibble) ≠ 0 := by decide

theorem witness_WaitForKeyTakesLowestOrWaits :
    ((withKeys State.reset [15]).keyDown 15 = true ∧ ∀ j : Fin nKeys, j < 15 → (withKeys State.reset [15]).keyDown j = false) ∧
    ((withKeys State.reset [0, 15]).keyDown 0 = true ∧ ∀ j : Fin nKeys, j < 0 → (withKeys State.reset [0, 15]).keyDown j = false) ∧
    ∀ k, State.reset.keyDown k = false := by decide

theorem witness_LogicCombinesBitsWithoutFlag :
    let s := withRegs [(1, 0xF0), (2, 0x3C)]
    (∀ k, k < 8 → (0xFC : Byte).getLsbD k = ((s.reg 1).getLsbD k || (s.reg 2).getLsbD k)) ∧
    (∀ k, k < 8 → (0x30 : Byte).getLsbD k = ((s.reg 1).getLsbD k && (s.reg 2).getLsbD k)) ∧
    ∀ k, k < 8 → (0xCC : Byte).getLsbD k = ((s.reg 1).getLsbD k ^^ (s.reg 2).getLsbD k) := by decide

theorem witness_SubtractDifferenceAndNoBorrow :
    ∃ (x y : Reg) (s : State) (a b : Nat), a = (s.reg x).toNat ∧ b = (s.reg y).toNat ∧ a = 0 ∧ b = 255 :=
  ⟨0, 1, withRegs [(1, 255)], 0, 255, by decide, by decide, rfl, rfl⟩

theorem witness_RndMasksFreshByte : (0x0F : Byte).getLsbD 4 = false ∧ (0xFE : Byte).getLsbD 0 = false := by decide

theorem witness_LdBStoresDecimalDigits : (withI 4093).i.toNat + 2 ≤ 4095 ∧ (withI 0).i.toNat + 2 ≤ 4095 := by decide

theorem witness_StoreRegsWritesInclusiveRange :
    (withI 4080).i.toNat + (15 : Reg).val ≤ 4095 ∧ (withI 4095).i.toNat + (0 : Reg).val ≤ 4095 ∧ (15 : Reg) ≤ 15 := by decide

theorem witness_LoadRegsReadsInclusiveRange :
    (withI 4080).i.toNat + (15 : Reg).val ≤ 4095 ∧ (withI 4095).i.toNat + (0 : Reg).val ≤ 4095 ∧ (0 : Reg) ≤ 0 ∧ (0 : Reg) < 1 := by
  decide

theorem witness_LoadRegsRestoresStoredRegs : ∃ (x : Reg) (s t u w : State), s.i.toNat + x.val ≤ 4095 ∧
    exec (.ldMemVx x) s = .next t ∧ u.mem = t.mem ∧ u.i = s.i ∧ exec (.ldVxMem x) u = .next w :=
  let s := { withRegs [(0, 1), (2, 7)] with i := 4093 }
  let u := { withI 4093 with mem := (result (.ldMemVx 2) s).mem }
  ⟨2, s, result (.ldMemVx 2) s, u, result (.ldVxMem 2) u, by decide, rfl, rfl, rfl, rfl⟩

theorem witness_DataOutsideMemoryFaults :
    (0 < (1 : Nibble).toNat ∧ 4095 < (withI 4096).i.toNat + (1 : Nibble).toNat - 1) ∧
    (0 < (15 : Nibble).toNat ∧ 4095 < (withI 4082).i.toNat + (15 : Nibble).toNat - 1) ∧
    4095 < (withI 4094).i.toNat + 2 ∧ 4095 < (withI 0xFFFF).i.toNat + 2 ∧
    4095 < (withI 4081).i.toNat + (15 : Reg).val ∧ 4095 < (withI 4096).i.toNat + (0 : Reg).val := by decide

theorem witness_StoredBytesAreFetched : ∃ (x : Reg) (s t : State), 1 ≤ x.val ∧ s.i.toNat + x.val ≤ 4095 ∧
    exec (.ldMemVx x) s = .next t :=
  ⟨1, { withRegs [(0, 0x6A), (1, 0x05)] with i := 4094 },
    result (.ldMemVx 1) { withRegs [(0, 0x6A), (1, 0x05)] with i := 4094 }, by decide, by decide, rfl⟩

theorem witness_DrwInvertsCoveredCells_range :
    ((0 : Nibble) = 0 ∨ (withI 0xFFFF).i.toNat + (0 : Nibble).toNat ≤ 4096) ∧
    ((15 : Nibble) = 0 ∨ (withI 4081).i.toNat + (15 : Nibble).toNat ≤ 4096) := by decide

/-- The top row of the glyph of 0 is `0xF0`: the sprite covers column 0, and no row of one byte covers column 4. -/
theorem witness_DrwInvertsCoveredCells_cells :
    SpriteCovers (withI 0x050) 0 1 1 (0, 0) ∧ ¬SpriteCovers (withI 0x050) 0 1 1 (4, 0) := by
  refine ⟨⟨0, 0, by decide, by decide, by decide, by decide, by decide⟩, ?_⟩
  have h : ∀ row : Nat, row < (1 : Nibble).toNat → ∀ col : Nat, col < 8 →
      ¬(((withI 0x050).mem.read ((withI 0x050).i.toNat + row)).getLsbD (7 - col) = true ∧
        4 = (((withI 0x050).reg 0).toNat + col) % fbW) := by decide
  rintro ⟨row, col, hr, hc, hb, hx, -⟩
  exact h row hr col hc ⟨hb, hx⟩

/-- A covered cell that was lit (the flag is 1), and a blank framebuffer (the flag is 0). -/
theorem witness_DrwInvertsCoveredCells_hits :
    (∃ p, SpriteCovers (withLit (withI 0x050) 0 0) 0 1 1 p ∧ (withLit (withI 0x050) 0 0).fb.pixel p = true) ∧
    ¬∃ p, SpriteCovers (withI 0xFFFF) 0 1 0 p ∧ (withI 0xFFFF).fb.pixel p = true := by
  refine ⟨⟨(0, 0), ⟨0, 0, by decide, by decide, by decide, by decide, by decide⟩, by decide⟩, ?_⟩
  rintro ⟨p, ⟨row, col, hr, -⟩, -⟩
  exact absurd hr (Nat.not_lt_zero row)

theorem witness_DrwTwiceRestoresFramebuffer : ∃ (x y : Reg) (n : Nibble) (s t u : State) (a : Word) (b : Bool),
    x ≠ vf ∧ y ≠ vf ∧ (n = 0 ∨ s.i.toNat + n.toNat ≤ 4096) ∧
    exec (.drw x y n) s = .next t ∧ exec (.drw x y n) { t with pc := a, redraw := b } = .next u :=
  ⟨0, 1, 1, withI 0x050, result (.drw 0 1 1) (withI 0x050),
    result (.drw 0 1 1) { result (.drw 0 1 1) (withI 0x050) with pc := 0x202, redraw := false }, 0x202, false,
    by decide, by decide, by decide, rfl, rfl⟩

theorem witness_EncodeOfDecode : decodeWord 0xD015 = .ok (.drw 0 1 5) := by decide

theorem witness_OpcodeRowsDoNotOverlap : ∃ (w : Word) (j k : Nat) (r q : Row), opcodeRows[j]? = some r ∧
    opcodeRows[k]? = some q ∧ r.matchesWord w = true ∧ q.matchesWord w = true :=
  ⟨0x8124, 13, 13, ⟨0x8004, 0xF00F⟩, ⟨0x8004, 0xF00F⟩, by decide, by decide, by decide, by decide⟩

theorem witness_FetchReadsTwoBytesOrFaults :
    (State.reset.setPc 4095).running ∧ 4094 < (State.reset.setPc 4095).pc.toNat ∧
    (State.reset.setPc 4094).running ∧ (State.reset.setPc 4094).pc.toNat ≤ 4094 := by decide

theorem witness_StepRunsDecodedInstruction :
    let s := at_ State.reset 4094 0x6A05
    s.running ∧ s.pc.toNat ≤ 4094 ∧
    decodeWord (wordOfBytes (s.mem.read s.pc.toNat) (s.mem.read (s.pc.toNat + 1))) = .ok (.ldByte 0xA 0x05) := by decide

theorem witness_IllegalWordFaultsAfterAdvance :
    let s := at_ State.reset 4094 0x8128
    s.running ∧ s.pc.toNat ≤ 4094 ∧
    legalWord (wordOfBytes (s.mem.read s.pc.toNat) (s.mem.read (s.pc.toNat + 1))) = false := by decide

theorem witness_FaultedStepChangesNothing :
    (stepped (State.reset.setPc 4095)).fault = some ⟨.fetchOutOfBounds, 4095, none⟩ := by decide

theorem witness_FaultsArePreciseAndRecorded_noFetch : ∃ (s t : State) (r : FaultRecord), s.running ∧ step s = .next t ∧
    t.fault = some r ∧ s.fetch = none :=
  ⟨State.reset.setPc 4095, stepped (State.reset.setPc 4095), ⟨.fetchOutOfBounds, 4095, none⟩, rfl, rfl, rfl, rfl⟩

theorem witness_FaultsArePreciseAndRecorded_execute : ∃ (s t : State) (r : FaultRecord), s.running ∧ step s = .next t ∧
    t.fault = some r ∧ s.fetch ≠ none :=
  ⟨at_ State.reset 0x200 0x00EE, stepped (at_ State.reset 0x200 0x00EE), ⟨.stackUnderflow, 0x200, some 0x00EE⟩, rfl, rfl, by decide,
    by decide⟩

theorem witness_ExecRaisesOnlyListedFaults : ∃ (i : Instr) (s t : State) (r : FaultRecord), s.running ∧ exec i s = .next t ∧
    t.fault = some r :=
  ⟨.ret, State.reset, result .ret State.reset, ⟨.stackUnderflow, 0x1FE, some 0x00EE⟩, rfl, rfl, by decide⟩

theorem witness_ExecWritesOnlyOwnFields : ∃ (i : Instr) (s t : State), exec i s = .next t ∧ t ≠ s :=
  ⟨.ldI 0x050, State.reset, result (.ldI 0x050) State.reset, rfl, by decide⟩

theorem witness_OnlyFlagWritersTouchVf : ∃ (i : Instr) (s t : State) (r : Reg), exec i s = .next t ∧ r ∉ i.destRegs ∧
    t.reg r ≠ s.reg r :=
  ⟨.addReg 0 1, withRegs [(0, 200), (1, 100)], result (.addReg 0 1) (withRegs [(0, 200), (1, 100)]), vf, rfl, by decide, by decide⟩

theorem witness_ControlFlowOnlyByListedInstructions : ∃ (s t : State) (w : Word) (i : Instr), s.running ∧ s.fetch = some w ∧
    decodeWord w = .ok i ∧ step s = .next t ∧ t.fault = none :=
  ⟨at_ State.reset 4094 0x3000, stepped (at_ State.reset 4094 0x3000), 0x3000, .seByte 0 0, rfl, by decide, by decide, rfl, by decide⟩

theorem witness_RedrawSetExactlyByDrawingStep : ∃ (s t : State) (w : Word), s.running ∧ s.fetch = some w ∧ step s = .next t ∧
    t.redraw = true :=
  ⟨at_ State.reset 0x200 0x00E0, stepped (at_ State.reset 0x200 0x00E0), 0x00E0, rfl, by decide, rfl, by decide⟩

theorem witness_StepWithoutRndIgnoresDraws : ∃ (s t : State), step s = .next t ∧
    ∀ w i, s.fetch = some w → decodeWord w = .ok i → i.usesRandom = false := by
  refine ⟨at_ State.reset 0x200 0x6A05, stepped (at_ State.reset 0x200 0x6A05), rfl, ?_⟩
  intro w i hw hi
  obtain rfl : w = 0x6A05 := Option.some.inj (hw.symm.trans (by decide))
  obtain rfl : i = .ldByte 0xA 0x05 := Except.ok.inj (hi.symm.trans (by decide))
  rfl

/-- Reset meets the invariant that the invariants' statements assume, and a step from it answers a next state. -/
theorem witness_StepKeepsInvariant : State.reset.Inv ∧ ∃ t, step State.reset = .next t :=
  ⟨⟨by decide, by decide, by decide⟩, _, rfl⟩

theorem witness_EveryScheduleKeepsInvariant : State.reset.Inv := witness_StepKeepsInvariant.1

theorem witness_FaultLatchStaysUntilReset :
    (stepped State.reset).fault = some ⟨.illegalOpcode, 0x200, some 0x0000⟩ ∧
    Op.reset ∉ [Op.step, .tick, .load [0x12, 0x00], .keyWrite 3 true] := by decide

theorem witness_ResetZeroesAllAndRewritesGlyphs : ∃ s t : State, t = s.hostReset ∧ t ≠ s :=
  ⟨withI 5, (withI 5).hostReset, rfl, by decide⟩

theorem witness_LoadCopiesImageTruncated :
    (0 < ([0x12, 0x00] : List Byte).length ∧ 0 < 3584) ∧ (0x1FF < 0x200 ∨ 0x200 + min 2 3584 ≤ 0x1FF) ∧
    (0x202 < 0x200 ∨ 0x200 + min ([0x12, 0x00] : List Byte).length 3584 ≤ 0x202) ∧
    0x200 + min (List.replicate 3585 (0 : Byte)).length 3584 ≤ 0x1000 :=
  ⟨by decide, by decide, by decide, by rw [List.length_replicate]; decide⟩

theorem witness_KeyWriteSetsOneFlag : (3 : Fin nKeys) ≠ 4 := by decide

end Sys2Proof.Tests
end

section
/-! Decoding of words written in their format (`30_encoding.md` R93, R95, R96), for the classes of the source's worked decodings
(R108). -/

namespace Sys2Proof

/-- Class 0 compares the whole word (R95). -/
@[simp] theorem decodeWord_cls : decodeWord 0x00E0 = .ok .cls := by decide

@[simp] theorem decodeWord_formatXI_ldByte (x : Reg) (nn : Byte) : decodeWord (formatXI 0x6 x nn) = .ok (.ldByte x nn) := by
  simp [decodeWord]

@[simp] theorem decodeWord_formatA_ldI (nnn : Addr12) : decodeWord (formatA 0xA nnn) = .ok (.ldI nnn) := by
  simp [decodeWord]

@[simp] theorem decodeWord_formatXYN_drw (x y : Reg) (n : Nibble) : decodeWord (formatXYN 0xD x y n) = .ok (.drw x y n) := by
  simp [decodeWord]

/-- Settles O35: each word is its format at the operands that the source reads from it. -/
theorem sourceWordsDecode : Obligations.SourceWordsDecode := by
  unfold Obligations.SourceWordsDecode
  have ldByte_word : (0x6A05 : Word) = formatXI 0x6 0xA 0x05 := by decide
  have ldI_word : (0xA202 : Word) = formatA 0xA 0x202 := by decide
  have drw_word : (0xD015 : Word) = formatXYN 0xD 0 1 5 := by decide
  rw [ldByte_word, ldI_word, drw_word]
  exact ⟨decodeWord_formatXI_ldByte 0xA 0x05, decodeWord_cls, decodeWord_formatA_ldI 0x202, decodeWord_formatXYN_drw 0 1 5⟩

end Sys2Proof
end

section
/-! `CLS`: the screen goes blank and a redraw is requested (`41_screen_return_jump_call.md` R140). -/

namespace Sys2Proof.Machine

theorem exec_cls (s : State) : exec .cls s = .next (s.drawFb Framebuffer.blank) := rfl

/-- What drawing leaves alone: every field but the framebuffer and the redraw flag (R33, R40). -/
theorem unchangedBut_drawFb (s : State) (fb : Framebuffer) : UnchangedBut [.fb, .redraw] s (s.drawFb fb) := by
  intro f hf
  cases f with
  | fb | redraw => simp at hf
  | v | i | pc | sp | stack | mem | dt | st | key | fault | draws => simp [Field.same]

/-- Settles O1: `CLS` draws the blank framebuffer. -/
theorem clsBlanksScreenAndRequestsRedraw : Obligations.ClsBlanksScreenAndRequestsRedraw := by
  unfold Obligations.ClsBlanksScreenAndRequestsRedraw
  have cls_word : encode .cls = 0x00E0 := rfl
  refine ⟨cls_word, decodeWord_cls, fun s => ⟨s.drawFb Framebuffer.blank, exec_cls s, ?_, ?_, ?_⟩⟩
  · exact Framebuffer.pixel_blank
  · exact State.drawFb_redraw s Framebuffer.blank
  · exact unchangedBut_drawFb s Framebuffer.blank

end Sys2Proof.Machine
end

section
/-! One register written and nothing else, and `LD Vx, byte` as its first use (`43_immediate.md` R160). -/

namespace Sys2Proof.Machine

/-- A register write leaves the registers of every other number alone (R21). -/
theorem regsUnchangedBut_setReg (s : State) (x : Reg) (b : Byte) : RegsUnchangedBut [x] s (s.setReg x b) := by
  intro r hr
  have hne : r ≠ x := List.ne_of_not_mem_cons hr
  rw [State.reg_setReg, if_neg hne]

/-- A register write leaves every field but the register file alone. -/
theorem unchangedBut_setReg (s : State) (x : Reg) (b : Byte) : UnchangedBut [.v] s (s.setReg x b) := by
  intro f hf
  cases f with
  | v => simp at hf
  | i | pc | sp | stack | mem | fb | dt | st | key | redraw | fault | draws => simp [Field.same]

/-- An instruction whose meaning is one `setReg` meets the whole claim of `SetsReg`: the value written and both frames. -/
theorem setsReg_of_exec_eq_setReg {i : Instr} {s : State} {x : Reg} {b : Byte} (h : exec i s = .next (s.setReg x b)) :
    SetsReg i s x b := by
  have written : (s.setReg x b).reg x = b := by rw [State.reg_setReg, if_pos rfl]
  exact ⟨s.setReg x b, h, written, regsUnchangedBut_setReg s x b, unchangedBut_setReg s x b⟩

theorem exec_ldByte (x : Reg) (nn : Byte) (s : State) : exec (.ldByte x nn) s = .next (s.setReg x nn) := rfl

/-- Settles O11: the word's fields read back as the operands, and the meaning is one register write. -/
theorem ldByteLoadsImmediate : Obligations.LdByteLoadsImmediate := by
  unfold Obligations.LdByteLoadsImmediate
  exact fun x nn => ⟨decodeWord_formatXI_ldByte x nn, fun s => setsReg_of_exec_eq_setReg (exec_ldByte x nn s)⟩

end Sys2Proof.Machine
end

section
/-! `I` written and nothing else, and `LD I, addr` as its first use (`45_index_jump_random.md` R180). -/

namespace Sys2Proof.Machine

/-- A write of `I` leaves every other field alone. -/
theorem unchangedBut_setI (s : State) (a : Word) : UnchangedBut [.i] s (s.setI a) := by
  intro f hf
  cases f with
  | i => simp at hf
  | v | pc | sp | stack | mem | fb | dt | st | key | redraw | fault | draws => simp [Field.same]

theorem exec_ldI (nnn : Addr12) (s : State) : exec (.ldI nnn) s = .next (s.setI (addrWord nnn)) := rfl

/-- Settles O19: the word's low 12 bits read back as the literal, and the meaning is one write of `I`, whose 16 bits hold
the literal zero-extended. -/
theorem ldILoadsAddress : Obligations.LdILoadsAddress := by
  unfold Obligations.LdILoadsAddress
  refine fun nnn => ⟨decodeWord_formatA_ldI nnn, fun s => ⟨s.setI (addrWord nnn), exec_ldI nnn s, ?_, ?_⟩⟩
  · rw [State.setI_i, toNat_addrWord]
  · exact unchangedBut_setI s (addrWord nnn)

end Sys2Proof.Machine
end

section
/-! The decoder reads every instruction back from its word (`30_encoding.md` R100, R105): the dispatch on the class first, the
secondary dispatch of classes 8, E and F second. -/

namespace Sys2Proof

/-- Class 8 goes to the dispatch on the low nibble (R97). -/
@[simp] theorem decodeWord_formatXYN_class8 (x y : Reg) (n : Nibble) :
    decodeWord (formatXYN 0x8 x y n) = decodeClass8 x y n := by
  simp [decodeWord]

/-- Class E goes to the dispatch on the low byte (R99). -/
@[simp] theorem decodeWord_formatXI_classE (x : Reg) (nn : Byte) : decodeWord (formatXI 0xE x nn) = decodeClassE x nn := by
  simp [decodeWord]

/-- Class F goes to the dispatch on the low byte (R99). -/
@[simp] theorem decodeWord_formatXI_classF (x : Reg) (nn : Byte) : decodeWord (formatXI 0xF x nn) = decodeClassF x nn := by
  simp [decodeWord]

/-- The dispatch sees the fields that the format put there. -/
theorem decodeWord_encode (i : Instr) : decodeWord (encode i) = .ok i := by
  cases i with
  | cls | ret => rfl
  | jpAddr | callAddr | ldI | jpV0 => simp [encode, decodeWord]
  | seByte | sneByte | ldByte | addByte | rnd => simp [encode, decodeWord]
  | seReg | sneReg | drw => simp [encode, decodeWord]
  | ldReg | orReg | andReg | xorReg | addReg | subReg | shr | subnReg | shl => exact decodeWord_formatXYN_class8 ..
  | skp | sknp => exact decodeWord_formatXI_classE ..
  | ldVxDt | ldVxK | ldDtVx | ldStVx | addI | ldF | ldB | ldMemVx | ldVxMem => exact decodeWord_formatXI_classF ..

/-- Settles O31: by the dispatch on the class, then the secondary dispatch of its class. -/
theorem decodeOfEncode : Obligations.DecodeOfEncode := by
  unfold Obligations.DecodeOfEncode
  exact decodeWord_encode

end Sys2Proof
end

section
/-! No bit of a legal word is lost (`30_encoding.md` R102, R103): in each class the word is its format at the fields that the decoder
reads, and that is the encoding. -/

namespace Sys2Proof

theorem formatA_of_fieldOp {w : Word} {c : Nibble} (h : (fieldOp w).toNat = c.toNat) : formatA c (fieldNNN w) = w := by
  rw [← BitVec.eq_of_toNat_eq h, formatA_fields]

theorem formatXI_of_fieldOp {w : Word} {c : Nibble} (h : (fieldOp w).toNat = c.toNat) :
    formatXI c (fieldX w) (fieldNN w) = w := by
  rw [← BitVec.eq_of_toNat_eq h, formatXI_fields]

theorem formatXYN_of_fieldOp {w : Word} {c : Nibble} (h : (fieldOp w).toNat = c.toNat) :
    formatXYN c (fieldX w) (fieldY w) (fieldN w) = w := by
  rw [← BitVec.eq_of_toNat_eq h, formatXYN_fields]

/-- The formats whose low nibble is fixed at 0 (R98). -/
theorem formatXYN_of_fieldOp_of_fieldN {w : Word} {c : Nibble} (h : (fieldOp w).toNat = c.toNat) (hn : fieldN w = 0) :
    formatXYN c (fieldX w) (fieldY w) 0 = w := by
  rw [← hn, formatXYN_of_fieldOp h]

theorem encode_of_decodeClass0 {w : Word} {i : Instr} (h : decodeClass0 w = .ok i) : encode i = w := by
  unfold decodeClass0 at h
  split at h
  · next hw => cases h; exact hw.symm
  · split at h
    · next hw => cases h; exact hw.symm
    · cases h

theorem encode_of_decodeClass8 {x y : Reg} {n : Nibble} {i : Instr} (h : decodeClass8 x y n = .ok i) :
    encode i = formatXYN 0x8 x y n := by
  unfold decodeClass8 at h
  split at h <;> cases h <;> next hn => exact congrArg (formatXYN 0x8 x y) (BitVec.eq_of_toNat_eq hn.symm)

theorem encode_of_decodeClassE {x : Reg} {nn : Byte} {i : Instr} (h : decodeClassE x nn = .ok i) :
    encode i = formatXI 0xE x nn := by
  unfold decodeClassE at h
  split_ifs at h <;> cases h <;> subst nn <;> rfl

theorem encode_of_decodeClassF {x : Reg} {nn : Byte} {i : Instr} (h : decodeClassF x nn = .ok i) :
    encode i = formatXI 0xF x nn := by
  unfold decodeClassF at h
  split_ifs at h <;> cases h <;> subst nn <;> rfl

theorem encode_of_decodeWord {w : Word} {i : Instr} (h : decodeWord w = .ok i) : encode i = w := by
  unfold decodeWord at h
  split at h
  · exact encode_of_decodeClass0 h
  · next hop => cases h; exact formatA_of_fieldOp hop
  · next hop => cases h; exact formatA_of_fieldOp hop
  · next hop => cases h; exact formatXI_of_fieldOp hop
  · next hop => cases h; exact formatXI_of_fieldOp hop
  · next hop =>
    split at h
    · next hn => cases h; exact formatXYN_of_fieldOp_of_fieldN hop hn
    · cases h
  · next hop => cases h; exact formatXI_of_fieldOp hop
  · next hop => cases h; exact formatXI_of_fieldOp hop
  · next hop => exact (encode_of_decodeClass8 h).trans (formatXYN_of_fieldOp hop)
  · next hop =>
    split at h
    · next hn => cases h; exact formatXYN_of_fieldOp_of_fieldN hop hn
    · cases h
  · next hop => cases h; exact formatA_of_fieldOp hop
  · next hop => cases h; exact formatA_of_fieldOp hop
  · next hop => cases h; exact formatXI_of_fieldOp hop
  · next hop => cases h; exact formatXYN_of_fieldOp hop
  · next hop => exact (encode_of_decodeClassE h).trans (formatXI_of_fieldOp hop)
  · have hop : (fieldOp w).toNat = 15 := by have := (fieldOp w).isLt; simp only [imp_false] at *; omega
    exact (encode_of_decodeClassF h).trans (formatXI_of_fieldOp hop)

/-- Settles O32: in each class the word is its format at the fields that the decoder read. -/
theorem encodeOfDecode : Obligations.EncodeOfDecode := by
  unfold Obligations.EncodeOfDecode
  exact fun _ _ => encode_of_decodeWord

end Sys2Proof
end

section
/-! The table of R105 against the decoder, and against itself (`30_encoding.md` R100). A row's mask keeps whole fields, so a word that
matches the row has the row's values in them. -/

namespace Sys2Proof

theorem Row.matchesWord_iff (r : Row) (w : Word) : r.matchesWord w = true ↔ w &&& r.mask = r.bits := by
  rw [Row.matchesWord, beq_iff_eq]

theorem fieldOp_and (w m : Word) : fieldOp (w &&& m) = fieldOp w &&& fieldOp m := BitVec.extractLsb'_and

theorem fieldN_and (w m : Word) : fieldN (w &&& m) = fieldN w &&& fieldN m := BitVec.extractLsb'_and

theorem fieldNN_and (w m : Word) : fieldNN (w &&& m) = fieldNN w &&& fieldNN m := BitVec.extractLsb'_and

section
variable {r : Row} {w : Word} (h : r.matchesWord w = true)
include h

theorem fieldOp_of_matchesWord (hm : fieldOp r.mask = BitVec.allOnes 4) : fieldOp w = fieldOp r.bits := by
  rw [← (r.matchesWord_iff w).1 h, fieldOp_and, hm, BitVec.and_allOnes]

theorem fieldN_of_matchesWord (hm : fieldN r.mask = BitVec.allOnes 4) : fieldN w = fieldN r.bits := by
  rw [← (r.matchesWord_iff w).1 h, fieldN_and, hm, BitVec.and_allOnes]

theorem fieldNN_of_matchesWord (hm : fieldNN r.mask = BitVec.allOnes 8) : fieldNN w = fieldNN r.bits := by
  rw [← (r.matchesWord_iff w).1 h, fieldNN_and, hm, BitVec.and_allOnes]

theorem eq_bits_of_matchesWord (hm : r.mask = BitVec.allOnes 16) : w = r.bits := by
  rw [← (r.matchesWord_iff w).1 h, hm, BitVec.and_allOnes]

end

/-- A word that matches the row of some instruction decodes: the fields that the mask fixes are all that the dispatch looks at. -/
theorem exists_decodeWord_of_row {j : Instr} {w : Word} (h : j.row.matchesWord w = true) : ∃ i, decodeWord w = .ok i := by
  cases j with (dsimp only [Instr.row] at h)
  | cls | ret =>
    rw [eq_bits_of_matchesWord h rfl]
    exact ⟨_, rfl⟩
  | jpAddr | callAddr | ldI | jpV0 | seByte | sneByte | ldByte | addByte | rnd | drw =>
    rw [decodeWord, fieldOp_of_matchesWord h rfl]
    exact ⟨_, rfl⟩
  | seReg | sneReg | ldReg | orReg | andReg | xorReg | addReg | subReg | shr | subnReg | shl =>
    rw [decodeWord, fieldOp_of_matchesWord h rfl, fieldN_of_matchesWord h rfl]
    exact ⟨_, rfl⟩
  | skp | sknp | ldVxDt | ldVxK | ldDtVx | ldStVx | addI | ldF | ldB | ldMemVx | ldVxMem =>
    rw [decodeWord, fieldOp_of_matchesWord h rfl, fieldNN_of_matchesWord h rfl]
    exact ⟨_, rfl⟩

/-- The word of an instruction matches the instruction's row. -/
theorem fixedBits (i : Instr) : Laws.FixedBits.Statement i := by
  cases i with
  | cls => exact Laws.FixedBits.cls
  | ret => exact Laws.FixedBits.ret
  | jpAddr nnn => exact Laws.FixedBits.jpAddr nnn
  | callAddr nnn => exact Laws.FixedBits.callAddr nnn
  | seByte x nn => exact Laws.FixedBits.seByte x nn
  | sneByte x nn => exact Laws.FixedBits.sneByte x nn
  | seReg x y => exact Laws.FixedBits.seReg x y
  | ldByte x nn => exact Laws.FixedBits.ldByte x nn
  | addByte x nn => exact Laws.FixedBits.addByte x nn
  | ldReg x y => exact Laws.FixedBits.ldReg x y
  | orReg x y => exact Laws.FixedBits.orReg x y
  | andReg x y => exact Laws.FixedBits.andReg x y
  | xorReg x y => exact Laws.FixedBits.xorReg x y
  | addReg x y => exact Laws.FixedBits.addReg x y
  | subReg x y => exact Laws.FixedBits.subReg x y
  | shr x y => exact Laws.FixedBits.shr x y
  | subnReg x y => exact Laws.FixedBits.subnReg x y
  | shl x y => exact Laws.FixedBits.shl x y
  | sneReg x y => exact Laws.FixedBits.sneReg x y
  | ldI nnn => exact Laws.FixedBits.ldI nnn
  | jpV0 nnn => exact Laws.FixedBits.jpV0 nnn
  | rnd x nn => exact Laws.FixedBits.rnd x nn
  | drw x y n => exact Laws.FixedBits.drw x y n
  | skp x => exact Laws.FixedBits.skp x
  | sknp x => exact Laws.FixedBits.sknp x
  | ldVxDt x => exact Laws.FixedBits.ldVxDt x
  | ldVxK x => exact Laws.FixedBits.ldVxK x
  | ldDtVx x => exact Laws.FixedBits.ldDtVx x
  | ldStVx x => exact Laws.FixedBits.ldStVx x
  | addI x => exact Laws.FixedBits.addI x
  | ldF x => exact Laws.FixedBits.ldF x
  | ldB x => exact Laws.FixedBits.ldB x
  | ldMemVx x => exact Laws.FixedBits.ldMemVx x
  | ldVxMem x => exact Laws.FixedBits.ldVxMem x

/-- One instruction for each row, in the table's order. -/
def rowRepresentatives : List Instr :=
  [.cls, .ret, .jpAddr 0, .callAddr 0, .seByte 0 0, .sneByte 0 0, .seReg 0 0, .ldByte 0 0, .addByte 0 0, .ldReg 0 0, .orReg 0 0,
    .andReg 0 0, .xorReg 0 0, .addReg 0 0, .subReg 0 0, .shr 0 0, .subnReg 0 0, .shl 0 0, .sneReg 0 0, .ldI 0, .jpV0 0, .rnd 0 0,
    .drw 0 0 0, .skp 0, .sknp 0, .ldVxDt 0, .ldVxK 0, .ldDtVx 0, .ldStVx 0, .addI 0, .ldF 0, .ldB 0, .ldMemVx 0, .ldVxMem 0]

theorem map_row_rowRepresentatives : rowRepresentatives.map Instr.row = opcodeRows := rfl

theorem legalWord_iff (w : Word) : legalWord w = true ↔ ∃ i : Instr, i.row.matchesWord w = true := by
  rw [legalWord, List.any_eq_true]
  constructor
  · rintro ⟨r, hr, hw⟩
    rw [← map_row_rowRepresentatives] at hr
    obtain ⟨i, -, rfl⟩ := List.mem_map.1 hr
    exact ⟨i, hw⟩
  · rintro ⟨i, hw⟩
    exact ⟨i.row, Laws.row_mem_opcodeRows i, hw⟩

theorem exists_decodeWord_iff (w : Word) : (∃ i, decodeWord w = .ok i) ↔ legalWord w = true := by
  rw [legalWord_iff]
  constructor
  · rintro ⟨i, hi⟩
    exact ⟨i, encode_of_decodeWord hi ▸ (fixedBits i).2⟩
  · rintro ⟨i, hw⟩
    exact exists_decodeWord_of_row hw

/-- Settles O33: the word that decodes to `i` is the word of `i`, which matches the row of `i`, and a word that matches a row has the
fields that the dispatch takes to an instruction of that row. -/
theorem decoderAcceptsExactlyTheTable : Obligations.DecoderAcceptsExactlyTheTable := by
  unfold Obligations.DecoderAcceptsExactlyTheTable
  exact exists_decodeWord_iff

/-- The rows disagree on a bit that both of their masks fix. -/
def Row.Conflicts (r q : Row) : Prop := r.bits &&& q.mask ≠ q.bits &&& r.mask

theorem not_conflicts_of_matchesWord {r q : Row} {w : Word} (hr : r.matchesWord w = true) (hq : q.matchesWord w = true) :
    ¬r.Conflicts q := by
  rw [Row.matchesWord_iff] at hr hq
  intro hne
  exact hne (by rw [← hr, ← hq, BitVec.and_assoc, BitVec.and_assoc, BitVec.and_comm r.mask])

/-- Each row of the table conflicts with every row after it. -/
theorem opcodeRows_pairwise_conflicts : opcodeRows.Pairwise Row.Conflicts := by
  unfold Row.Conflicts
  decide

/-- Settles O34: two rows that one word matches do not conflict, so neither stands after the other. -/
theorem opcodeRowsDoNotOverlap : Obligations.OpcodeRowsDoNotOverlap := by
  unfold Obligations.OpcodeRowsDoNotOverlap
  intro w j k r q hr hq hrw hqw
  have pairwise := List.pairwise_iff_getElem.1 opcodeRows_pairwise_conflicts
  obtain ⟨hj, rfl⟩ := List.getElem?_eq_some_iff.1 hr
  obtain ⟨hk, rfl⟩ := List.getElem?_eq_some_iff.1 hq
  rcases Nat.lt_trichotomy j k with hlt | heq | hgt
  · exact absurd (pairwise j k hj hk hlt) (not_conflicts_of_matchesWord hrw hqw)
  · exact heq
  · exact absurd (pairwise k j hk hj hgt) (not_conflicts_of_matchesWord hqw hrw)

end Sys2Proof
end

section
/-! Frames: what each update of the state leaves alone (`10_state.md` R40), and how frames compose. -/

namespace Sys2Proof.Machine

open Sys2Proof.Config

theorem UnchangedBut.mono {fs gs : List Field} {s t : State} (h : UnchangedBut fs s t) (hsub : fs ⊆ gs) : UnchangedBut gs s t :=
  fun f hf => h f fun hmem => hf (hsub hmem)

theorem Field.same_refl (s : State) (f : Field) : Field.same s s f := by
  cases f <;> simp [Field.same]

theorem Field.same_trans {s t u : State} {f : Field} (hst : Field.same s t f) (htu : Field.same t u f) : Field.same s u f := by
  cases f with
  | mem => exact fun a => (htu a).trans (hst a)
  | v | i | pc | sp | stack | fb | dt | st | key | redraw | fault | draws => exact Eq.trans htu hst

theorem UnchangedBut.refl (fs : List Field) (s : State) : UnchangedBut fs s s := fun f _ => Field.same_refl s f

theorem UnchangedBut.trans {fs : List Field} {s t u : State} (hst : UnchangedBut fs s t) (htu : UnchangedBut fs t u) :
    UnchangedBut fs s u := fun f hf => Field.same_trans (hst f hf) (htu f hf)

theorem unchangedBut_setPc (s : State) (a : Word) : UnchangedBut [.pc] s (s.setPc a) := by
  intro f hf
  cases f with
  | pc => simp at hf
  | v | i | sp | stack | mem | fb | dt | st | key | redraw | fault | draws => simp [Field.same]

theorem unchangedBut_skipIf (s : State) (c : Bool) : UnchangedBut [.pc] s (s.skipIf c) := by
  cases c with
  | true => exact unchangedBut_setPc s _
  | false => exact .refl _ s

theorem unchangedBut_setDt (s : State) (b : Byte) : UnchangedBut [.dt] s (s.setDt b) := by
  intro f hf
  cases f with
  | dt => simp at hf
  | v | i | pc | sp | stack | mem | fb | st | key | redraw | fault | draws => simp [Field.same]

theorem unchangedBut_setSt (s : State) (b : Byte) : UnchangedBut [.st] s (s.setSt b) := by
  intro f hf
  cases f with
  | st => simp at hf
  | v | i | pc | sp | stack | mem | fb | dt | key | redraw | fault | draws => simp [Field.same]

theorem unchangedBut_setMem (s : State) (m : Memory) : UnchangedBut [.mem] s (s.setMem m) := by
  intro f hf
  cases f with
  | mem => simp at hf
  | v | i | pc | sp | stack | fb | dt | st | key | redraw | fault | draws => simp [Field.same]

theorem unchangedBut_setRegs (s : State) (v : Vector Byte nRegs) : UnchangedBut [.v] s (s.setRegs v) := by
  intro f hf
  cases f with
  | v => simp at hf
  | i | pc | sp | stack | mem | fb | dt | st | key | redraw | fault | draws => simp [Field.same]

theorem unchangedBut_setFlagThenReg (s : State) (flag : Byte) (x : Reg) (b : Byte) :
    UnchangedBut [.v] s (s.setFlagThenReg flag x b) := (unchangedBut_setReg s vf flag).trans (unchangedBut_setReg _ x b)

theorem unchangedBut_countDraw (s : State) : UnchangedBut [.draws] s s.countDraw := by
  intro f hf
  cases f with
  | draws => simp at hf
  | v | i | pc | sp | stack | mem | fb | dt | st | key | redraw | fault => simp [Field.same]

theorem unchangedBut_advance (s : State) : UnchangedBut [.pc, .redraw] s s.advance := by
  intro f hf
  cases f with
  | pc | redraw => simp at hf
  | v | i | sp | stack | mem | fb | dt | st | key | fault | draws => simp [Field.same]

theorem unchangedBut_raise (s : State) (k : FaultKind) (a : Word) (w : Option Word) :
    UnchangedBut [.fault] s (s.raise k a w) := by
  intro f hf
  cases f with
  | fault => simp at hf
  | v | i | pc | sp | stack | mem | fb | dt | st | key | redraw | draws => simp [Field.same]

theorem unchangedBut_raiseIn (s : State) (k : FaultKind) (i : Instr) : UnchangedBut [.fault] s (s.raiseIn k i) :=
  unchangedBut_raise s k _ _

theorem unchangedBut_keyWrite (s : State) (k : Fin nKeys) (b : Bool) : UnchangedBut [.key] s (s.keyWrite k b) := by
  intro f hf
  cases f with
  | key => simp at hf
  | v | i | pc | sp | stack | mem | fb | dt | st | redraw | fault | draws => simp [Field.same]

theorem unchangedBut_push {s t : State} {a : Word} (h : s.push a = some t) : UnchangedBut [.sp, .stack] s t := by
  obtain ⟨-, rfl⟩ := (State.push_eq_some_iff s t a).1 h
  intro f hf
  cases f with
  | sp | stack => simp at hf
  | v | i | pc | mem | fb | dt | st | key | redraw | fault | draws => simp [Field.same]

theorem unchangedBut_popPc {s t : State} (h : s.popPc = some t) : UnchangedBut [.pc, .sp] s t := by
  obtain ⟨-, a, -, n, -, rfl⟩ := (State.popPc_eq_some_iff s t).1 h
  intro f hf
  cases f with
  | pc | sp => simp at hf
  | v | i | stack | mem | fb | dt | st | key | redraw | fault | draws => simp [Field.same]

/-! ### Frames of the register file -/

theorem regsUnchangedBut_setFlagThenReg (s : State) (flag : Byte) (x : Reg) (b : Byte) :
    RegsUnchangedBut [x, vf] s (s.setFlagThenReg flag x b) := by
  intro r hr
  simp only [List.mem_cons, List.not_mem_nil, or_false, not_or] at hr
  rw [State.reg_setFlagThenReg, if_neg hr.1, if_neg hr.2]

end Sys2Proof.Machine
end

section
/-! What each instruction answers (`40_step_cycle.md` R124), one equation per case of its meaning. -/

namespace Sys2Proof.Machine

open Sys2Proof.Config

/-! ### Control flow -/

theorem exec_ret_of_popPc {s t : State} (h : s.popPc = some t) : exec .ret s = .next t := by
  simp only [exec, execRet, h]

theorem exec_ret_underflow {s : State} (h : s.popPc = none) : exec .ret s = .next (s.raiseIn .stackUnderflow .ret) := by
  simp only [exec, execRet, h]

theorem exec_jpAddr {nnn : Addr12} (h : 0x200 ≤ nnn.toNat) (s : State) :
    exec (.jpAddr nnn) s = .next (s.setPc (addrWord nnn)) := if_pos ((jumpTargetOk_iff nnn).2 h)

theorem exec_jpAddr_illegal {nnn : Addr12} (h : nnn.toNat < 0x200) (s : State) :
    exec (.jpAddr nnn) s = .next (s.raiseIn .illegalJumpTarget (.jpAddr nnn)) :=
  if_neg fun hok => absurd ((jumpTargetOk_iff nnn).1 hok) (by omega)

theorem exec_callAddr {nnn : Addr12} {s t : State} (hpush : s.push s.pc = some t) (h : 0x200 ≤ nnn.toNat) :
    exec (.callAddr nnn) s = .next (t.setPc (addrWord nnn)) := by
  simp only [exec, execCallAddr, hpush, (jumpTargetOk_iff nnn).2 h, if_true]

theorem exec_callAddr_illegal {nnn : Addr12} {s t : State} (hpush : s.push s.pc = some t) (h : nnn.toNat < 0x200) :
    exec (.callAddr nnn) s = .next (s.raiseIn .illegalJumpTarget (.callAddr nnn)) := by
  have hbad : jumpTargetOk nnn ≠ true := fun hok => absurd ((jumpTargetOk_iff nnn).1 hok) (by omega)
  simp only [exec, execCallAddr, hpush, if_neg hbad]

theorem exec_callAddr_overflow {s : State} (hpush : s.push s.pc = none) (nnn : Addr12) :
    exec (.callAddr nnn) s = .next (s.raiseIn .stackOverflow (.callAddr nnn)) := by
  simp only [exec, execCallAddr, hpush]

theorem exec_seByte (x : Reg) (nn : Byte) (s : State) : exec (.seByte x nn) s = .next (s.skipIf (s.reg x == nn)) := rfl

theorem exec_sneByte (x : Reg) (nn : Byte) (s : State) : exec (.sneByte x nn) s = .next (s.skipIf (s.reg x != nn)) := rfl

theorem exec_seReg (x y : Reg) (s : State) : exec (.seReg x y) s = .next (s.skipIf (s.reg x == s.reg y)) := rfl

theorem exec_sneReg (x y : Reg) (s : State) : exec (.sneReg x y) s = .next (s.skipIf (s.reg x != s.reg y)) := rfl

theorem exec_jpV0 (nnn : Addr12) (s : State) :
    exec (.jpV0 nnn) s = .next (s.setPc (addrWord nnn + byteWord (s.reg 0))) := rfl

theorem exec_skp (x : Reg) (s : State) : exec (.skp x) s = .next (s.skipIf (s.keyDown (keyIndex (s.reg x)))) := rfl

theorem exec_sknp (x : Reg) (s : State) : exec (.sknp x) s = .next (s.skipIf (!s.keyDown (keyIndex (s.reg x)))) := rfl

theorem exec_ldVxK_of_key {s : State} {k : Fin nKeys} (h : s.firstKey = some k) (x : Reg) :
    exec (.ldVxK x) s = .next (s.setReg x (BitVec.ofNat 8 k.val)) := by
  simp only [exec, execLdVxK, h]

theorem exec_ldVxK_waits {s : State} (h : s.firstKey = none) (x : Reg) :
    exec (.ldVxK x) s = .next (s.setPc (s.pc - 2)) := by
  simp only [exec, execLdVxK, h]

/-! ### Registers -/

theorem exec_addByte (x : Reg) (nn : Byte) (s : State) : exec (.addByte x nn) s = .next (s.setReg x (s.reg x + nn)) := rfl

theorem exec_ldReg (x y : Reg) (s : State) : exec (.ldReg x y) s = .next (s.setReg x (s.reg y)) := rfl

theorem exec_orReg (x y : Reg) (s : State) : exec (.orReg x y) s = .next (s.setReg x (s.reg x ||| s.reg y)) := rfl

theorem exec_andReg (x y : Reg) (s : State) : exec (.andReg x y) s = .next (s.setReg x (s.reg x &&& s.reg y)) := rfl

theorem exec_xorReg (x y : Reg) (s : State) : exec (.xorReg x y) s = .next (s.setReg x (s.reg x ^^^ s.reg y)) := rfl

theorem exec_addReg (x y : Reg) (s : State) :
    exec (.addReg x y) s = .next (s.setFlagThenReg (carryFlag (s.reg x) (s.reg y)) x (s.reg x + s.reg y)) := rfl

theorem exec_subReg (x y : Reg) (s : State) :
    exec (.subReg x y) s = .next (s.setFlagThenReg (noBorrowFlag (s.reg x) (s.reg y)) x (s.reg x - s.reg y)) := rfl

theorem exec_subnReg (x y : Reg) (s : State) :
    exec (.subnReg x y) s = .next (s.setFlagThenReg (noBorrowFlag (s.reg y) (s.reg x)) x (s.reg y - s.reg x)) := rfl

theorem exec_shr (x y : Reg) (s : State) :
    exec (.shr x y) s = .next (s.setFlagThenReg (shrFlag (s.reg x)) x (s.reg x >>> 1)) := rfl

theorem exec_shl (x y : Reg) (s : State) :
    exec (.shl x y) s = .next (s.setFlagThenReg (shlFlag (s.reg x)) x (s.reg x <<< 1)) := rfl

theorem exec_rnd (x : Reg) (nn : Byte) (s : State) :
    exec (.rnd x nn) s = .next (s.setReg x (rndByte s.draws &&& nn)).countDraw := rfl

/-! ### Index register and timers -/

theorem exec_addI (x : Reg) (s : State) : exec (.addI x) s = .next (s.setI (s.i + byteWord (s.reg x))) := rfl

theorem exec_ldF (x : Reg) (s : State) : exec (.ldF x) s = .next (s.setI (glyphAddr (s.reg x))) := rfl

theorem exec_ldVxDt (x : Reg) (s : State) : exec (.ldVxDt x) s = .next (s.setReg x s.dt) := rfl

theorem exec_ldDtVx (x : Reg) (s : State) : exec (.ldDtVx x) s = .next (s.setDt (s.reg x)) := rfl

theorem exec_ldStVx (x : Reg) (s : State) : exec (.ldStVx x) s = .next (s.setSt (s.reg x)) := rfl

/-! ### Memory and screen: the range is checked before the first access (R67, R129) -/

theorem exec_ldB {s : State} (h : s.i.toNat + 3 ≤ memSize) (x : Reg) :
    exec (.ldB x) s = .next (s.setMem (s.mem.storeBytes s.i.toNat (bcdDigits (s.reg x)))) :=
  if_pos ((dataRangeOk_iff _ _).2 (.inr h))

theorem exec_ldB_outside {s : State} (h : memSize < s.i.toNat + 3) (x : Reg) :
    exec (.ldB x) s = .next (s.raiseIn .dataOutOfBounds (.ldB x)) :=
  if_neg fun hok => absurd ((dataRangeOk_iff _ _).1 hok) (by omega)

theorem exec_ldMemVx {s : State} {x : Reg} (h : s.i.toNat + (x.val + 1) ≤ memSize) :
    exec (.ldMemVx x) s = .next (s.setMem (s.mem.storeBytes s.i.toNat (s.regsUpTo x))) :=
  if_pos ((dataRangeOk_iff _ _).2 (.inr h))

theorem exec_ldMemVx_outside {s : State} {x : Reg} (h : memSize < s.i.toNat + (x.val + 1)) :
    exec (.ldMemVx x) s = .next (s.raiseIn .dataOutOfBounds (.ldMemVx x)) :=
  if_neg fun hok => absurd ((dataRangeOk_iff _ _).1 hok) (by omega)

theorem exec_ldVxMem {s : State} {x : Reg} (h : s.i.toNat + (x.val + 1) ≤ memSize) :
    exec (.ldVxMem x) s = .next (s.setRegs (writeRegs s.v 0 (s.mem.readBytes s.i.toNat (x.val + 1)))) :=
  if_pos ((dataRangeOk_iff _ _).2 (.inr h))

theorem exec_ldVxMem_outside {s : State} {x : Reg} (h : memSize < s.i.toNat + (x.val + 1)) :
    exec (.ldVxMem x) s = .next (s.raiseIn .dataOutOfBounds (.ldVxMem x)) :=
  if_neg fun hok => absurd ((dataRangeOk_iff _ _).1 hok) (by omega)

theorem exec_drw {s : State} {n : Nibble} (h : n.toNat = 0 ∨ s.i.toNat + n.toNat ≤ memSize) (x y : Reg) :
    exec (.drw x y n) s = .next ((s.drawFb (s.fb.toggle false (s.spriteCells x y n)).1).setReg vf
      (b2n (s.fb.toggle false (s.spriteCells x y n)).2)) :=
  if_pos ((dataRangeOk_iff _ _).2 h)

theorem exec_drw_outside {s : State} {n : Nibble} (hn : 0 < n.toNat) (h : memSize < s.i.toNat + n.toNat) (x y : Reg) :
    exec (.drw x y n) s = .next (s.raiseIn .dataOutOfBounds (.drw x y n)) :=
  if_neg fun hok => absurd ((dataRangeOk_iff _ _).1 hok) (by omega)

end Sys2Proof.Machine
end

section
/-! What the execute phase can do to a state, said once for all 34 instructions: raise one of the instruction's own faults (R228), or
one of a few updates, each with the instructions that make it. The invariants and frames of every step are read off from this. -/

namespace Sys2Proof.Machine

open Sys2Proof.Config

/-- `Effect i s t`: `i` takes `s` to `t` by one of these updates. -/
inductive Effect : Instr → State → State → Prop
  | fault {i s k} (hk : k ∈ i.faults) : Effect i s (s.raiseIn k i)
  | setReg {i s x} (b : Byte) (hdest : i.destRegs = [x]) (hw : .v ∈ i.writes) (hdraw : .redraw ∉ i.writes) :
      Effect i s (s.setReg x b)
  | setFlagThenReg {i s x} (flag : Bool) (b : Byte) (hdest : i.destRegs = [x]) (hw : i.writes = [.v])
      (hflag : i.writesFlag = true) : Effect i s (s.setFlagThenReg (b2n flag) x b)
  | random {s} (x : Reg) (b nn : Byte) : Effect (.rnd x nn) s (s.setReg x b).countDraw
  | loadRegs {s} (x : Reg) (bs : List Byte) (hlen : bs.length = x.val + 1) :
      Effect (.ldVxMem x) s (s.setRegs (writeRegs s.v 0 bs))
  | setI {i s} (a : Word) (hw : i.writes = [.i]) : Effect i s (s.setI a)
  | setDt {i s} (b : Byte) (hw : i.writes = [.dt]) : Effect i s (s.setDt b)
  | setSt {i s} (b : Byte) (hw : i.writes = [.st]) : Effect i s (s.setSt b)
  | store {i s} (bs : List Byte) (hw : i.writes = [.mem]) (hrange : s.i.toNat + bs.length ≤ memSize) :
      Effect i s (s.setMem (s.mem.storeBytes s.i.toNat bs))
  | blank {s} : Effect .cls s (s.drawFb Framebuffer.blank)
  | draw {s} (x y : Reg) (n : Nibble) (fb : Framebuffer) (hit : Bool) :
      Effect (.drw x y n) s ((s.drawFb fb).setReg vf (b2n hit))
  | skip {i s} (c : Bool) (hw : i.writes = [.pc]) (hskip : i.isSkip = true) : Effect i s (s.skipIf c)
  | jump {s} (nnn : Addr12) : Effect (.jpAddr nnn) s (s.setPc (addrWord nnn))
  | jumpPlus {s} (nnn : Addr12) : Effect (.jpV0 nnn) s (s.setPc (addrWord nnn + byteWord (s.reg 0)))
  | call {s u} (nnn : Addr12) (hpush : s.push s.pc = some u) : Effect (.callAddr nnn) s (u.setPc (addrWord nnn))
  | ret {s t} (hpop : s.popPc = some t) : Effect .ret s t
  | wait {s} (x : Reg) (hkey : ∀ k, s.keyDown k = false) : Effect (.ldVxK x) s (s.setPc (s.pc - 2))

/-- Every instruction answers a next state (R131), by one of the updates. -/
theorem exists_exec_effect (i : Instr) (s : State) : ∃ t, exec i s = .next t ∧ Effect i s t := by
  cases i with
  | cls => exact ⟨_, exec_cls s, .blank⟩
  | ret =>
    cases hpop : s.popPc with
    | none => exact ⟨_, exec_ret_underflow hpop, .fault (List.mem_singleton.2 rfl)⟩
    | some t => exact ⟨t, exec_ret_of_popPc hpop, .ret hpop⟩
  | jpAddr nnn =>
    rcases Nat.lt_or_ge nnn.toNat 0x200 with hlt | hge
    · exact ⟨_, exec_jpAddr_illegal hlt s, .fault (List.mem_singleton.2 rfl)⟩
    · exact ⟨_, exec_jpAddr hge s, .jump nnn⟩
  | callAddr nnn =>
    cases hpush : s.push s.pc with
    | none => exact ⟨_, exec_callAddr_overflow hpush nnn, .fault (by simp [Instr.faults])⟩
    | some u =>
      rcases Nat.lt_or_ge nnn.toNat 0x200 with hlt | hge
      · exact ⟨_, exec_callAddr_illegal hpush hlt, .fault (by simp [Instr.faults])⟩
      · exact ⟨_, exec_callAddr hpush hge, .call nnn hpush⟩
  | seByte | sneByte | seReg | sneReg | skp | sknp => exact ⟨_, rfl, .skip _ rfl rfl⟩
  | ldByte | addByte | ldReg | orReg | andReg | xorReg | ldVxDt =>
    exact ⟨_, rfl, .setReg _ rfl (by simp [Instr.writes]) (by simp [Instr.writes])⟩
  | addReg | subReg | shr | subnReg | shl => exact ⟨_, rfl, .setFlagThenReg _ _ rfl rfl rfl⟩
  | ldI | addI | ldF => exact ⟨_, rfl, .setI _ rfl⟩
  | jpV0 nnn => exact ⟨_, exec_jpV0 nnn s, .jumpPlus nnn⟩
  | rnd x nn => exact ⟨_, exec_rnd x nn s, .random x _ nn⟩
  | drw x y n =>
    by_cases h : n.toNat = 0 ∨ s.i.toNat + n.toNat ≤ memSize
    · exact ⟨_, exec_drw h x y, .draw x y n _ _⟩
    · rw [not_or, Nat.not_le] at h
      exact ⟨_, exec_drw_outside (by omega) h.2 x y, .fault (List.mem_singleton.2 rfl)⟩
  | ldVxK x =>
    cases hkey : s.firstKey with
    | none => exact ⟨_, exec_ldVxK_waits hkey x, .wait x (s.firstKey_eq_none_iff.1 hkey)⟩
    | some k => exact ⟨_, exec_ldVxK_of_key hkey x, .setReg _ rfl (by simp [Instr.writes]) (by simp [Instr.writes])⟩
  | ldDtVx => exact ⟨_, rfl, .setDt _ rfl⟩
  | ldStVx => exact ⟨_, rfl, .setSt _ rfl⟩
  | ldB x =>
    rcases Nat.lt_or_ge memSize (s.i.toNat + 3) with hlt | hle
    · exact ⟨_, exec_ldB_outside hlt x, .fault (List.mem_singleton.2 rfl)⟩
    · exact ⟨_, exec_ldB hle x, .store _ rfl hle⟩
  | ldMemVx x =>
    rcases Nat.lt_or_ge memSize (s.i.toNat + (x.val + 1)) with hlt | hle
    · exact ⟨_, exec_ldMemVx_outside hlt, .fault (List.mem_singleton.2 rfl)⟩
    · exact ⟨_, exec_ldMemVx hle, .store _ rfl (by rwa [State.length_regsUpTo])⟩
  | ldVxMem x =>
    rcases Nat.lt_or_ge memSize (s.i.toNat + (x.val + 1)) with hlt | hle
    · exact ⟨_, exec_ldVxMem_outside hlt, .fault (List.mem_singleton.2 rfl)⟩
    · exact ⟨_, exec_ldVxMem hle, .loadRegs x _ (Memory.length_readBytes ..)⟩

theorem effect_of_exec {i : Instr} {s t : State} (h : exec i s = .next t) : Effect i s t := by
  obtain ⟨t', ht', heff⟩ := exists_exec_effect i s
  cases h.symm.trans ht'
  exact heff

/-! ### Reading off -/

/-- The latch after the execute phase: as before, or a fault of the instruction's own list, raised once. -/
theorem Effect.fault_eq_or_raiseIn {i : Instr} {s t : State} (h : Effect i s t) :
    t.fault = s.fault ∨ ∃ k ∈ i.faults, t = s.raiseIn k i := by
  cases h with
  | fault hk => exact .inr ⟨_, hk, rfl⟩
  | call nnn hpush => exact .inl (unchangedBut_push hpush .fault (by simp))
  | ret hpop => exact .inl (unchangedBut_popPc hpop .fault (by simp))
  | skip c => exact .inl (State.skipIf_fault s c)
  | setReg | setFlagThenReg | random | loadRegs | setI | setDt | setSt | store | blank | draw | jump | jumpPlus | wait =>
    exact .inl rfl

/-- R40, R129: the fields of the instruction's own list, or the latch alone. -/
theorem Effect.unchangedBut {i : Instr} {s t : State} (h : Effect i s t) :
    UnchangedBut i.writes s t ∨ UnchangedBut [.fault] s t := by
  cases h with
  | fault => exact .inr (unchangedBut_raiseIn s _ i)
  | setReg b _ hw => exact .inl ((unchangedBut_setReg s _ b).mono (by simpa using hw))
  | setFlagThenReg flag b _ hw => exact .inl (hw ▸ unchangedBut_setFlagThenReg s _ _ b)
  | random x b => exact .inl (((unchangedBut_setReg s x b).mono (by simp [Instr.writes])).trans
      ((unchangedBut_countDraw _).mono (by simp [Instr.writes])))
  | loadRegs x bs => exact .inl (unchangedBut_setRegs s _)
  | setI a hw => exact .inl (hw ▸ unchangedBut_setI s a)
  | setDt b hw => exact .inl (hw ▸ unchangedBut_setDt s b)
  | setSt b hw => exact .inl (hw ▸ unchangedBut_setSt s b)
  | store bs hw => exact .inl (hw ▸ unchangedBut_setMem s _)
  | blank => exact .inl (unchangedBut_drawFb s _)
  | draw x y n fb hit => exact .inl (((unchangedBut_drawFb s fb).mono (by simp [Instr.writes])).trans
      ((unchangedBut_setReg _ vf _).mono (by simp [Instr.writes])))
  | skip c hw => exact .inl (hw ▸ unchangedBut_skipIf s c)
  | jump nnn => exact .inl (unchangedBut_setPc s _)
  | jumpPlus nnn => exact .inl (unchangedBut_setPc s _)
  | call nnn hpush => exact .inl (((unchangedBut_push hpush).mono (by simp [Instr.writes])).trans
      ((unchangedBut_setPc _ _).mono (by simp [Instr.writes])))
  | ret hpop => exact .inl (unchangedBut_popPc hpop)
  | wait x => exact .inl ((unchangedBut_setPc s _).mono (by simp [Instr.writes]))

end Sys2Proof.Machine
end

section
/-! The step (`40_step_cycle.md` R120 to R124): what it can do, said once. -/

namespace Sys2Proof.Machine

open Sys2Proof.Config

theorem step_of_faulted {s : State} {r : FaultRecord} (h : s.fault = some r) : step s = .next s := by
  simp only [step, h]

section
variable {s : State} (hrun : s.running)
include hrun

theorem step_of_fetch_none (hf : s.fetch = none) : step s = .next s.raiseFetch := by
  simp only [step, hrun, hf]

theorem step_of_illegal {w : Word} {e : Reject} (hf : s.fetch = some w) (hd : decodeWord w = .error e) :
    step s = .next (s.raiseIllegal w) := by
  simp only [step, hrun, hf, hd]

theorem step_of_decode {w : Word} {i : Instr} (hf : s.fetch = some w) (hd : decodeWord w = .ok i) :
    step s = exec i s.advance := by
  simp only [step, hrun, hf, hd]

end

/-- `StepTo s t`: the four ways of a step, each with the state it leaves. -/
inductive StepTo (s : State) : State → Prop
  | idle {r} (hfault : s.fault = some r) : StepTo s s
  | fetchFault (hrun : s.running) (hf : s.fetch = none) : StepTo s s.raiseFetch
  | illegal {w e} (hrun : s.running) (hf : s.fetch = some w) (hd : decodeWord w = .error e) : StepTo s (s.raiseIllegal w)
  | run {w i t} (hrun : s.running) (hf : s.fetch = some w) (hd : decodeWord w = .ok i) (hexec : exec i s.advance = .next t) :
      StepTo s t

theorem exists_step_stepTo (s : State) : ∃ t, step s = .next t ∧ StepTo s t := by
  cases hfault : s.fault with
  | some r => exact ⟨s, step_of_faulted hfault, .idle hfault⟩
  | none =>
    cases hf : s.fetch with
    | none => exact ⟨_, step_of_fetch_none hfault hf, .fetchFault hfault hf⟩
    | some w =>
      cases hd : decodeWord w with
      | error e => exact ⟨_, step_of_illegal hfault hf hd, .illegal hfault hf hd⟩
      | ok i =>
        obtain ⟨t, hexec, -⟩ := exists_exec_effect i s.advance
        exact ⟨t, (step_of_decode hfault hf hd).trans hexec, .run hfault hf hd hexec⟩

theorem stepTo_of_step {s t : State} (h : step s = .next t) : StepTo s t := by
  obtain ⟨t', ht', hto⟩ := exists_step_stepTo s
  cases h.symm.trans ht'
  exact hto

end Sys2Proof.Machine
end

section
/-! The invariant (`10_state.md` R29, `41_screen_return_jump_call.md` R141): an execute phase keeps it, so a step does, so every
operation of a schedule does (`70_reset_and_hazards.md` R279). -/

namespace Sys2Proof.Machine

open Sys2Proof.Config

/-- The invariant speaks of memory, `pc` and the call stack only. -/
theorem State.Inv.congr {s t : State} (h : s.Inv) (hmem : t.mem = s.mem) (hstack : t.stack = s.stack)
    (hpc : t.pc.toNat ≤ 0x10FE) : t.Inv where
  memWf := hmem ▸ h.memWf
  pcBound := hpc
  stackBound := hstack ▸ h.stackBound

theorem State.Inv.setPc {s : State} (h : s.Inv) {a : Word} (ha : a.toNat ≤ 0x10FE) : (s.setPc a).Inv := h.congr rfl rfl ha

theorem State.Inv.setMem {s : State} (h : s.Inv) {m : Memory} (hm : m.wf) : (s.setMem m).Inv := ⟨hm, h.pcBound, h.stackBound⟩

/-- A pushed address within the bound of R141 keeps the invariant. -/
theorem State.Inv.push {s t : State} {a : Word} (h : s.Inv) (ha : a.toNat ≤ memSize) (hpush : s.push a = some t) : t.Inv := by
  obtain ⟨hlt, rfl⟩ := (State.push_eq_some_iff s t a).1 hpush
  refine ⟨h.memWf, h.pcBound, fun j hj => ?_⟩
  dsimp only
  rw [Vector.getElem_set]
  split
  · exact ha
  · exact h.stackBound j hj

/-- A popped address is an entry, so it is within the bound of `pc`. -/
theorem State.Inv.popPc {s t : State} (h : s.Inv) (hpop : s.popPc = some t) : t.Inv := by
  obtain ⟨-, a, ha, n, -, rfl⟩ := (State.popPc_eq_some_iff s t).1 hpop
  obtain ⟨hj, rfl⟩ := Vector.getElem?_eq_some_iff.1 ha
  have bound := h.stackBound _ hj
  exact h.congr rfl rfl (Nat.le_trans bound (by decide))

/-- `JP V0` reaches `0xFFF + 0xFF` at most, with no wrap (R29, R181). -/
theorem toNat_addrWord_add_byteWord (nnn : Addr12) (b : Byte) : (addrWord nnn + byteWord b).toNat = nnn.toNat + b.toNat := by
  have hn := nnn.isLt
  have hb := b.isLt
  rw [BitVec.toNat_add, toNat_addrWord, toNat_byteWord]
  omega

theorem toNat_add_two {a : Word} (h : a.toNat ≤ 4096) : (a + 2).toNat = a.toNat + 2 := by
  rw [BitVec.toNat_add, show (2 : Word).toNat = 2 from rfl]
  omega

/-- The execute phase starts after phase 2 of a fetch, so with `pc` from 2 to 4096 (R121, R122). -/
theorem Effect.inv {i : Instr} {s t : State} (h : Effect i s t) (hs : s.Inv) (hlo : 2 ≤ s.pc.toNat) (hhi : s.pc.toNat ≤ 4096) :
    t.Inv := by
  cases h with
  | fault | setReg | setFlagThenReg | random | loadRegs | setI | setDt | setSt | blank | draw =>
    exact hs.congr rfl rfl hs.pcBound
  | store bs hw hrange => exact hs.setMem (Memory.storeBytes_wf bs hrange hs.memWf)
  | skip c =>
    cases c with
    | false => exact hs
    | true => exact hs.setPc (by rw [toNat_add_two hhi]; omega)
  | jump nnn => exact hs.setPc (by have := nnn.isLt; rw [toNat_addrWord]; omega)
  | jumpPlus nnn =>
    have hn := nnn.isLt
    have hb := (s.reg 0).isLt
    exact hs.setPc (by rw [toNat_addrWord_add_byteWord]; omega)
  | call nnn hpush => exact (hs.push hhi hpush).setPc (by have := nnn.isLt; rw [toNat_addrWord]; omega)
  | ret hpop => exact hs.popPc hpop
  | wait x =>
    have hsub : (s.pc - 2).toNat = s.pc.toNat - 2 := BitVec.toNat_sub_of_le (by rwa [BitVec.le_def])
    exact hs.setPc (by rw [hsub]; omega)

theorem State.toNat_pc_advance {s : State} {w : Word} (hf : s.fetch = some w) : s.advance.pc.toNat = s.pc.toNat + 2 :=
  toNat_add_two (by have := State.pc_le_of_fetch hf; omega)

/-- Phase 2 after a fetch keeps the invariant. -/
theorem State.Inv.advance {s : State} {w : Word} (hs : s.Inv) (hf : s.fetch = some w) : s.advance.Inv :=
  hs.congr rfl rfl (by have := State.pc_le_of_fetch hf; rw [State.toNat_pc_advance hf]; omega)

theorem State.Inv.step {s t : State} (hs : s.Inv) (h : step s = .next t) : t.Inv := by
  cases stepTo_of_step h with
  | idle => exact hs
  | fetchFault => exact hs.congr rfl rfl hs.pcBound
  | illegal hrun hf => exact (hs.advance hf).congr rfl rfl (hs.advance hf).pcBound
  | run hrun hf hd hexec =>
    have hle := State.pc_le_of_fetch hf
    have hpc := State.toNat_pc_advance hf
    exact (effect_of_exec hexec).inv (hs.advance hf) (by omega) (by omega)

/-- Settles O50: from the four ways of a step, and for an execute phase from the updates it can make. -/
theorem stepKeepsInvariant : Obligations.StepKeepsInvariant := by
  unfold Obligations.StepKeepsInvariant
  exact fun s t hs h => hs.step h

theorem State.Inv.reset : State.reset.Inv where
  memWf := Memory.reset_wf
  pcBound := by decide
  stackBound := fun j hj => by simp [State.reset]

/-- Settles O49: no cell of memory is listed, `pc` is `0x200`, and every call-stack entry is 0. -/
theorem resetMeetsInvariant : Obligations.ResetMeetsInvariant := by
  unfold Obligations.ResetMeetsInvariant
  exact State.Inv.reset

/-- The image is truncated at the capacity (R264), so it stays inside memory. -/
theorem State.Inv.load {s : State} (hs : s.Inv) (image : List Byte) : (s.load image).Inv := by
  refine hs.setMem (Memory.storeBytes_wf _ ?_ hs.memWf)
  have := List.length_take_le progCapacity image
  simp only [progCapacity, progBase, memSize] at this ⊢
  omega

/-- Every operation of a schedule answers a next state (R131, R246). -/
theorem exists_applyOp (o : Op) (s : State) : ∃ t, applyOp o s = .next t := by
  cases o with
  | step =>
    obtain ⟨t, ht, -⟩ := exists_step_stepTo s
    exact ⟨t, ht⟩
  | reset | load | tick | keyWrite => exact ⟨_, rfl⟩

theorem State.Inv.applyOp {s t : State} {o : Op} (hs : s.Inv) (h : applyOp o s = .next t) : t.Inv := by
  cases o with
  | step => exact hs.step h
  | reset => cases h; exact State.Inv.reset.congr rfl rfl State.Inv.reset.pcBound
  | load image => cases h; exact hs.load image
  | tick => cases h; exact hs.congr rfl rfl hs.pcBound
  | keyWrite k b => cases h; exact hs.congr rfl rfl hs.pcBound

theorem runOps_cons {o : Op} {s t : State} (h : applyOp o s = .next t) (os : List Op) : runOps (o :: os) s = runOps os t := by
  rw [runOps, h]

/-- What every operation of a schedule keeps, the schedule keeps. -/
theorem exists_runOps_of_invariant {P : State → Prop} (os : List Op)
    (hP : ∀ o ∈ os, ∀ s t, P s → applyOp o s = .next t → P t) {s : State} (hs : P s) : ∃ t, runOps os s = .next t ∧ P t := by
  induction os generalizing s with
  | nil => exact ⟨s, rfl, hs⟩
  | cons o os ih =>
    obtain ⟨t, ht⟩ := exists_applyOp o s
    rw [runOps_cons ht]
    exact ih (fun o' ho' => hP o' (List.mem_cons_of_mem o ho')) (hP o List.mem_cons_self s t hs ht)

/-- Settles O51: every operation keeps the invariant, so every schedule does. -/
theorem everyScheduleKeepsInvariant : Obligations.EveryScheduleKeepsInvariant := by
  unfold Obligations.EveryScheduleKeepsInvariant
  exact fun os s hs => exists_runOps_of_invariant os (fun _ _ _ _ hs' h => hs'.applyOp h) hs

end Sys2Proof.Machine
end

section
/-! The fault latch (`60_exceptions.md` R233): a faulted machine's step changes nothing, and no host operation but Reset touches the
latch. -/

namespace Sys2Proof.Machine

/-- Settles O39: a step looks at the latch first. -/
theorem faultedStepChangesNothing : Obligations.FaultedStepChangesNothing := by
  unfold Obligations.FaultedStepChangesNothing
  exact fun s r h => step_of_faulted h

theorem unchangedBut_tick (s : State) : UnchangedBut [.dt, .st] s s.tick :=
  ((unchangedBut_setDt s _).mono (by simp)).trans ((unchangedBut_setSt _ _).mono (by simp))

theorem unchangedBut_load (s : State) (image : List Byte) : UnchangedBut [.mem] s (s.load image) := unchangedBut_setMem s _

/-- With a fault latched, an operation other than Reset writes memory, the timers or the keypad at most. -/
theorem unchangedBut_applyOp_of_faulted {s t : State} {o : Op} {r : FaultRecord} (hfault : s.fault = some r) (ho : o ≠ .reset)
    (h : applyOp o s = .next t) : UnchangedBut [.mem, .dt, .st, .key] s t := by
  cases o with
  | reset => exact absurd rfl ho
  | step => cases (step_of_faulted hfault).symm.trans h; exact .refl _ s
  | load image => cases h; exact (unchangedBut_load s image).mono (by simp)
  | tick => cases h; exact (unchangedBut_tick s).mono (by simp)
  | keyWrite k b => cases h; exact (unchangedBut_keyWrite s k b).mono (by simp)

/-- Settles O52: the frame from the first state, which contains the latch, is kept by every operation of the schedule. -/
theorem faultLatchStaysUntilReset : Obligations.FaultLatchStaysUntilReset := by
  unfold Obligations.FaultLatchStaysUntilReset
  intro os s r hfault hos
  have latched {t : State} (h : UnchangedBut [.mem, .dt, .st, .key] s t) : t.fault = some r := (h .fault (by simp)).trans hfault
  obtain ⟨t, ht, hframe⟩ := exists_runOps_of_invariant (P := UnchangedBut [.mem, .dt, .st, .key] s) os
    (fun o ho u v hu h => hu.trans (unchangedBut_applyOp_of_faulted (latched hu) (fun heq => hos (heq ▸ ho)) h)) (.refl _ s)
  exact ⟨t, ht, latched hframe, hframe⟩

end Sys2Proof.Machine
end

section
/-! Frames and faults of every instruction and every step (`40_step_cycle.md` R127 to R131, `60_exceptions.md` R228 to R232), read off
from what the execute phase and the step can do. -/

namespace Sys2Proof.Machine

open Sys2Proof.Config

/-- Settles O42: each way of a step leaves a state. -/
theorem stepAlwaysAnswersNext : Obligations.StepAlwaysAnswersNext := by
  unfold Obligations.StepAlwaysAnswersNext
  intro s
  obtain ⟨t, ht, -⟩ := exists_step_stepTo s
  exact ⟨t, ht⟩

/-- Settles O43: each update of the execute phase stays within the list of every instruction that makes it. -/
theorem execWritesOnlyOwnFields : Obligations.ExecWritesOnlyOwnFields := by
  unfold Obligations.ExecWritesOnlyOwnFields
  exact fun i s t h => (effect_of_exec h).unchangedBut

/-- From a running machine, a latched fault is one that this execute phase raised. -/
theorem Effect.eq_raiseIn_of_fault {i : Instr} {s t : State} {r : FaultRecord} (h : Effect i s t) (hrun : s.running)
    (hr : t.fault = some r) : ∃ k ∈ i.faults, t = s.raiseIn k i ∧ r = ⟨k, s.pc - 2, some (encode i)⟩ := by
  rcases h.fault_eq_or_raiseIn with hsame | ⟨k, hk, rfl⟩
  · rw [hsame, hrun] at hr
    cases hr
  · exact ⟨k, hk, rfl, (Option.some.inj hr).symm⟩

/-- Settles O41: the latch was empty, so the fault is one that the execute phase raised. -/
theorem execRaisesOnlyListedFaults : Obligations.ExecRaisesOnlyListedFaults := by
  unfold Obligations.ExecRaisesOnlyListedFaults
  intro i s t r hrun h hr
  obtain ⟨k, hk, -, rfl⟩ := (effect_of_exec h).eq_raiseIn_of_fault hrun hr
  exact hk

/-- No instruction raises the fault of phase 1 (R221, R228). -/
theorem fetchOutOfBounds_not_mem_faults (i : Instr) : FaultKind.fetchOutOfBounds ∉ i.faults := by
  cases i <;> simp [Instr.faults]

/-- A fault after phase 2 leaves the state after phase 2 but for the latch (R232). -/
theorem precise_of_advance_raise (s : State) (k : FaultKind) (a : Word) (w : Option Word) :
    (s.advance.raise k a w).pc = s.pc + 2 ∧ (s.advance.raise k a w).redraw = false ∧
      UnchangedBut [.pc, .redraw, .fault] s (s.advance.raise k a w) :=
  ⟨rfl, rfl, ((unchangedBut_advance s).mono (by simp)).trans ((unchangedBut_raise _ k a w).mono (by simp))⟩

/-- Settles O40, by the three ways of a step to latch a fault: in phase 1, in phase 3, and in the execute phase. -/
theorem faultsArePreciseAndRecorded : Obligations.FaultsArePreciseAndRecorded := by
  unfold Obligations.FaultsArePreciseAndRecorded
  intro s t r hrun h hr
  cases stepTo_of_step h with
  | idle hfault => rw [hrun] at hfault; cases hfault
  | fetchFault _ hf =>
    cases hr
    exact ⟨rfl, hf.symm, iff_of_true rfl hf, fun _ => unchangedBut_raise s _ _ _, fun hne => absurd hf hne⟩
  | illegal _ hf hd =>
    cases hr
    exact ⟨rfl, hf.symm, by simp [hf], by simp [hf], fun _ => precise_of_advance_raise s _ _ _⟩
  | run _ hf hd hexec =>
    obtain ⟨k, hk, rfl, rfl⟩ := (effect_of_exec hexec).eq_raiseIn_of_fault (s := s.advance) hrun hr
    have hkind : k ≠ .fetchOutOfBounds := fun heq => fetchOutOfBounds_not_mem_faults _ (heq ▸ hk)
    refine ⟨BitVec.add_sub_cancel .., ?_, by simp [hf, hkind], by simp [hf], fun _ => precise_of_advance_raise s _ _ _⟩
    rw [hf, encode_of_decodeWord hd]

end Sys2Proof.Machine
end

section
/-! Who writes `VF`, `pc` and `redraw` (`10_state.md` R24, R27, R33). -/

namespace Sys2Proof.Machine

open Sys2Proof.Config

theorem mem_destRegs_ldVxMem (x r : Reg) : r ∈ (Instr.ldVxMem x).destRegs ↔ r.val ≤ x.val := by
  have hall : [0, 1, 2, 3, 4, 5, 6, 7, 8, 9, 10, 11, 12, 13, 14, 15] = List.finRange 16 := by decide
  rw [Instr.destRegs, hall, List.mem_filter, decide_eq_true_iff]
  exact and_iff_right (List.mem_finRange r)

/-- A load of registers from 0 up leaves those past its bytes alone. -/
theorem reg_setRegs_writeRegs_of_le (s : State) (bs : List Byte) (r : Reg) (h : bs.length ≤ r.val) :
    (s.setRegs (writeRegs s.v 0 bs)).reg r = s.reg r := by
  rw [State.reg, State.setRegs_v, Vector.get_eq_getElem, getElem_writeRegs, if_pos (Nat.zero_le _), Nat.sub_zero,
    List.getD_eq_default _ _ h, State.reg, Vector.get_eq_getElem]

/-- R24: a register that is no destination is unchanged, or it is the flag of a flag writer. -/
theorem Effect.reg_eq_or_flag {i : Instr} {s t : State} {r : Reg} (h : Effect i s t) (hr : r ∉ i.destRegs) :
    t.reg r = s.reg r ∨ (r = vf ∧ i.writesFlag = true ∧ (t.reg vf = 0 ∨ t.reg vf = 1)) := by
  cases h with
  | setReg b hdest => exact .inl (regsUnchangedBut_setReg s _ b r (hdest ▸ hr))
  | random x b => exact .inl (regsUnchangedBut_setReg s x b r hr)
  | @setFlagThenReg _ _ x flag b hdest _ hflag =>
    rw [hdest, List.mem_singleton] at hr
    by_cases hvf : r = vf
    · subst hvf
      rw [State.reg_setFlagThenReg, if_neg hr, if_pos rfl]
      exact .inr ⟨rfl, hflag, b2n_eq_zero_or_one flag⟩
    · exact .inl (regsUnchangedBut_setFlagThenReg s _ x b r (by simp [hr, hvf]))
  | draw x y n fb hit =>
    by_cases hvf : r = vf
    · rw [State.reg_setReg, State.reg_setReg, if_pos rfl]
      exact .inr ⟨hvf, rfl, b2n_eq_zero_or_one hit⟩
    · exact .inl (regsUnchangedBut_setReg _ vf _ r (by simpa using hvf))
  | loadRegs x bs hlen =>
    rw [mem_destRegs_ldVxMem] at hr
    exact .inl (reg_setRegs_writeRegs_of_le s bs r (by omega))
  | skip c => exact .inl (State.reg_congr (State.skipIf_v s c) r)
  | call nnn hpush => exact .inl (State.reg_congr (unchangedBut_push hpush .v (by simp)) r)
  | ret hpop => exact .inl (State.reg_congr (unchangedBut_popPc hpop .v (by simp)) r)
  | fault | setI | setDt | setSt | store | blank | jump | jumpPlus | wait => exact .inl rfl

/-- Settles O44: `VF` is written unnamed by a flag update or a draw, and as 0 or 1. -/
theorem onlyFlagWritersTouchVf : Obligations.OnlyFlagWritersTouchVf := by
  unfold Obligations.OnlyFlagWritersTouchVf
  exact fun i s t r h hr => (effect_of_exec h).reg_eq_or_flag hr

/-- Settles O45: the updates that move `pc` are a skip, the jumps, the call, the return and the wait. -/
theorem controlFlowOnlyByListedInstructions : Obligations.ControlFlowOnlyByListedInstructions := by
  unfold Obligations.ControlFlowOnlyByListedInstructions
  intro s t w i hrun hf hd h hfault
  rw [step_of_decode hrun hf hd] at h
  cases effect_of_exec h with
  | fault => cases hfault
  | setReg | setFlagThenReg | random | loadRegs | setI | setDt | setSt | store | blank | draw => exact .inl rfl
  | skip c _ hskip =>
    cases c with
    | false => exact .inl rfl
    | true => exact .inr (.inl ⟨hskip, BitVec.add_assoc s.pc 2 2⟩)
  | jump nnn => exact .inr (.inr (.inl ⟨nnn, .inl rfl, toNat_addrWord nnn⟩))
  | call nnn => exact .inr (.inr (.inl ⟨nnn, .inr rfl, toNat_addrWord nnn⟩))
  | jumpPlus nnn => exact .inr (.inr (.inr (.inl ⟨nnn, rfl, toNat_addrWord_add_byteWord nnn (s.reg 0)⟩)))
  | ret hpop =>
    obtain ⟨-, a, ha, n, -, rfl⟩ := (State.popPc_eq_some_iff _ _).1 hpop
    exact .inr (.inr (.inr (.inr (.inl ⟨rfl, ha⟩))))
  | wait x hkey => exact .inr (.inr (.inr (.inr (.inr ⟨x, rfl, hkey, BitVec.add_sub_cancel ..⟩))))

theorem requestsRedraw_iff (i : Instr) : i.requestsRedraw = true ↔ .redraw ∈ i.writes := by
  cases i <;> simp [Instr.requestsRedraw, Instr.writes]

/-- From a running machine with `redraw` clear, `redraw` is set after the execute phase iff it drew. -/
theorem Effect.redraw_iff {i : Instr} {s t : State} (h : Effect i s t) (hrun : s.running) (hs : s.redraw = false) :
    t.redraw = true ↔ t.fault = none ∧ i.requestsRedraw = true := by
  rw [requestsRedraw_iff]
  cases h with
  | blank => exact iff_of_true rfl ⟨hrun, by simp [Instr.writes]⟩
  | draw => exact iff_of_true rfl ⟨hrun, by simp [Instr.writes]⟩
  | fault => simp [hs]
  | setReg b _ _ hdraw => simp [hs, hdraw]
  | setFlagThenReg flag b _ hw => simp [hs, hw]
  | setI a hw | setDt a hw | setSt a hw | store a hw | skip a hw => simp [hs, hw]
  | random | loadRegs | jump | jumpPlus | wait => simp [hs, Instr.writes]
  | call nnn hpush =>
    have hsame : _ = s.redraw := unchangedBut_push hpush .redraw (by simp)
    simp [hsame, hs, Instr.writes]
  | ret hpop =>
    have hsame : t.redraw = s.redraw := unchangedBut_popPc hpop .redraw (by simp)
    simp [hsame, hs, Instr.writes]

/-- Settles O46: phase 2 cleared the flag, so only the execute phase can have set it. -/
theorem redrawSetExactlyByDrawingStep : Obligations.RedrawSetExactlyByDrawingStep := by
  unfold Obligations.RedrawSetExactlyByDrawingStep
  intro s t w hrun hf h
  cases hd : decodeWord w with
  | error e =>
    cases (step_of_illegal hrun hf hd).symm.trans h
    simp [State.raiseIllegal]
  | ok i =>
    rw [step_of_decode hrun hf hd] at h
    rw [(effect_of_exec h).redraw_iff hrun rfl]
    simp

end Sys2Proof.Machine
end

section
/-! The random input (`60_exceptions.md` R241): the count of draws is read by `RND` alone. -/

namespace Sys2Proof.Machine

/-- The same state at another point of the host's random input. -/
def State.withDraws (s : State) (n : Nat) : State := { s with draws := n }

theorem push_withDraws (s : State) (n : Nat) (a : Word) :
    (s.withDraws n).push a = (s.push a).map (·.withDraws n) := by
  by_cases h : s.sp.val < Config.stackDepth <;> simp [State.push, State.withDraws, h]

theorem popPc_withDraws (s : State) (n : Nat) : (s.withDraws n).popPc = s.popPc.map (·.withDraws n) := by
  by_cases h : 0 < s.sp.val <;> simp [State.popPc, State.withDraws, h]

theorem skipIf_withDraws (s : State) (n : Nat) (c : Bool) : (s.withDraws n).skipIf c = (s.skipIf c).withDraws n := by
  cases c <;> rfl

/-- Every instruction but `RND` does the same whatever the count. -/
theorem exists_exec_withDraws {i : Instr} (hi : i.usesRandom = false) (s : State) (n : Nat) :
    ∃ t, exec i s = .next t ∧ exec i (s.withDraws n) = .next (t.withDraws n) := by
  cases i with
  | rnd => cases hi
  | cls | ldByte | addByte | ldReg | orReg | andReg | xorReg | addReg | subReg | shr | subnReg | shl | ldI | jpV0 | ldVxDt | ldDtVx
  | ldStVx | addI | ldF => exact ⟨_, rfl, rfl⟩
  | seByte | sneByte | seReg | sneReg | skp | sknp => exact ⟨_, rfl, congrArg Host.Outcome.next (skipIf_withDraws s n _)⟩
  | ret =>
    cases hpop : s.popPc with
    | none => exact ⟨_, exec_ret_underflow hpop, exec_ret_underflow (s := s.withDraws n) (by rw [popPc_withDraws, hpop]; rfl)⟩
    | some t => exact ⟨t, exec_ret_of_popPc hpop, exec_ret_of_popPc (by rw [popPc_withDraws, hpop]; rfl)⟩
  | jpAddr nnn =>
    rcases Nat.lt_or_ge nnn.toNat 0x200 with hlt | hge
    · exact ⟨_, exec_jpAddr_illegal hlt s, exec_jpAddr_illegal hlt _⟩
    · exact ⟨_, exec_jpAddr hge s, exec_jpAddr hge _⟩
  | callAddr nnn =>
    have hn : (s.withDraws n).push (s.withDraws n).pc = (s.push s.pc).map (·.withDraws n) := push_withDraws s n s.pc
    cases hpush : s.push s.pc with
    | none =>
      rw [hpush] at hn
      exact ⟨_, exec_callAddr_overflow hpush nnn, exec_callAddr_overflow hn nnn⟩
    | some u =>
      rw [hpush] at hn
      rcases Nat.lt_or_ge nnn.toNat 0x200 with hlt | hge
      · exact ⟨_, exec_callAddr_illegal hpush hlt, exec_callAddr_illegal hn hlt⟩
      · exact ⟨_, exec_callAddr hpush hge, exec_callAddr hn hge⟩
  | drw x y m =>
    by_cases h : m.toNat = 0 ∨ s.i.toNat + m.toNat ≤ Config.memSize
    · exact ⟨_, exec_drw h x y, exec_drw (s := s.withDraws n) h x y⟩
    · rw [not_or, Nat.not_le] at h
      exact ⟨_, exec_drw_outside (by omega) h.2 x y, exec_drw_outside (s := s.withDraws n) (by omega) h.2 x y⟩
  | ldVxK x =>
    cases hkey : s.firstKey with
    | none => exact ⟨_, exec_ldVxK_waits hkey x, exec_ldVxK_waits (s := s.withDraws n) hkey x⟩
    | some k => exact ⟨_, exec_ldVxK_of_key hkey x, exec_ldVxK_of_key (s := s.withDraws n) hkey x⟩
  | ldB x =>
    rcases Nat.lt_or_ge Config.memSize (s.i.toNat + 3) with hlt | hle
    · exact ⟨_, exec_ldB_outside hlt x, exec_ldB_outside (s := s.withDraws n) hlt x⟩
    · exact ⟨_, exec_ldB hle x, exec_ldB (s := s.withDraws n) hle x⟩
  | ldMemVx x =>
    rcases Nat.lt_or_ge Config.memSize (s.i.toNat + (x.val + 1)) with hlt | hle
    · exact ⟨_, exec_ldMemVx_outside hlt, exec_ldMemVx_outside (s := s.withDraws n) hlt⟩
    · exact ⟨_, exec_ldMemVx hle, exec_ldMemVx (s := s.withDraws n) hle⟩
  | ldVxMem x =>
    rcases Nat.lt_or_ge Config.memSize (s.i.toNat + (x.val + 1)) with hlt | hle
    · exact ⟨_, exec_ldVxMem_outside hlt, exec_ldVxMem_outside (s := s.withDraws n) hlt⟩
    · exact ⟨_, exec_ldVxMem hle, exec_ldVxMem (s := s.withDraws n) hle⟩

theorem exec_withDraws {i : Instr} {s t : State} (hi : i.usesRandom = false) (h : exec i s = .next t) (n : Nat) :
    exec i (s.withDraws n) = .next (t.withDraws n) := by
  obtain ⟨t', ht', hn⟩ := exists_exec_withDraws hi s n
  cases h.symm.trans ht'
  exact hn

/-- Settles O47: fetch, decode and phase 2 do not look at the count either. -/
theorem stepWithoutRndIgnoresDraws : Obligations.StepWithoutRndIgnoresDraws := by
  unfold Obligations.StepWithoutRndIgnoresDraws
  intro s t n h hrandom
  show step (s.withDraws n) = .next (t.withDraws n)
  cases stepTo_of_step h with
  | idle hfault => exact step_of_faulted (s := s.withDraws n) hfault
  | fetchFault hrun hf => exact step_of_fetch_none (s := s.withDraws n) hrun hf
  | illegal hrun hf hd => exact step_of_illegal (s := s.withDraws n) hrun hf hd
  | run hrun hf hd hexec => exact (step_of_decode (s := s.withDraws n) hrun hf hd).trans (exec_withDraws (hrandom _ _ hf hd) hexec n)

end Sys2Proof.Machine
end

section
/-! The phases of one step (`40_step_cycle.md` R121 to R124). -/

namespace Sys2Proof.Machine

open Sys2Proof.Config

/-- Big-endian (R63). -/
theorem toNat_wordOfBytes (hi lo : Byte) : (wordOfBytes hi lo).toNat = hi.toNat * 256 + lo.toNat := by
  rw [wordOfBytes, BitVec.toNat_append, ← Nat.shiftLeft_add_eq_or_of_lt lo.isLt, Nat.shiftLeft_eq]

/-- Settles O36: the fetch fails exactly above 4094, and else reads the two bytes big-endian. -/
theorem fetchReadsTwoBytesOrFaults : Obligations.FetchReadsTwoBytesOrFaults := by
  unfold Obligations.FetchReadsTwoBytesOrFaults
  intro s hrun
  constructor
  · intro hpc
    have hf := s.fetch_eq_none_iff.2 hpc
    exact ⟨hf, s.raiseFetch, step_of_fetch_none hrun hf, rfl, unchangedBut_raise s _ _ _⟩
  · intro hpc
    exact ⟨_, State.fetch_of_le hpc, toNat_wordOfBytes _ _⟩

/-- Settles O37: `advance` is the state after phase 2. -/
theorem stepRunsDecodedInstruction : Obligations.StepRunsDecodedInstruction := by
  unfold Obligations.StepRunsDecodedInstruction
  exact fun s i hrun hpc hd => step_of_decode hrun (State.fetch_of_le hpc) hd

theorem exists_decodeWord_error {w : Word} (h : legalWord w = false) : ∃ e, decodeWord w = .error e := by
  cases hd : decodeWord w with
  | error e => exact ⟨e, rfl⟩
  | ok i =>
    rw [(exists_decodeWord_iff w).1 ⟨i, hd⟩] at h
    cases h

/-- Settles O38: a word outside the table is rejected by the decoder, after phase 2. -/
theorem illegalWordFaultsAfterAdvance : Obligations.IllegalWordFaultsAfterAdvance := by
  unfold Obligations.IllegalWordFaultsAfterAdvance
  intro s hrun hpc hw
  obtain ⟨e, he⟩ := exists_decodeWord_error hw
  exact ⟨_, step_of_illegal hrun (State.fetch_of_le hpc) he, ⟨_, _, rfl⟩, precise_of_advance_raise s _ _ _⟩

/-- Settles O48: memory is 0 at `0x200`, and class 0 rejects the word 0. -/
theorem stepRightAfterResetIsIllegal : Obligations.StepRightAfterResetIsIllegal := by
  unfold Obligations.StepRightAfterResetIsIllegal
  have hf : State.reset.fetch = some 0x0000 := by decide
  have hd : decodeWord 0x0000 = .error .class0 := by decide
  exact ⟨_, step_of_illegal rfl hf hd, rfl, rfl⟩

end Sys2Proof.Machine
end

section
/-! Return, jumps and call (`41_screen_return_jump_call.md` R141 to R143, `45_index_jump_random.md` R181). -/

namespace Sys2Proof.Machine

open Sys2Proof.Config

/-- An instruction whose meaning is `raiseIn` meets the whole claim of `Raises`. -/
theorem raises_of_exec_eq_raiseIn {i : Instr} {s : State} {k : FaultKind} (h : exec i s = .next (s.raiseIn k i)) : Raises i s k :=
  ⟨_, h, ⟨_, _, rfl⟩, unchangedBut_raiseIn s k i⟩

theorem exists_popPc_of_pos {s : State} (h : 0 < s.sp.val) : ∃ t, s.popPc = some t := by
  cases hpop : s.popPc with
  | some t => exact ⟨t, rfl⟩
  | none =>
    have := s.popPc_eq_none_iff.1 hpop
    omega

/-- Settles O2: a pop succeeds exactly with an entry in use. -/
theorem retPopsIntoPcOrUnderflows : Obligations.RetPopsIntoPcOrUnderflows := by
  unfold Obligations.RetPopsIntoPcOrUnderflows
  refine ⟨rfl, decodeWord_encode .ret, fun s => ⟨fun hpos => ?_, fun hzero => ?_⟩⟩
  · obtain ⟨t, hpop⟩ := exists_popPc_of_pos hpos
    refine ⟨t, exec_ret_of_popPc hpop, ?_⟩
    have hframe := unchangedBut_popPc hpop
    obtain ⟨-, a, ha, n, hn, rfl⟩ := (State.popPc_eq_some_iff s t).1 hpop
    exact ⟨ha, hn, hframe⟩
  · exact raises_of_exec_eq_raiseIn (exec_ret_underflow (s.popPc_eq_none_iff.2 hzero))

/-- Settles O3: a literal has 12 bits, so the check is the lower bound alone. -/
theorem jpSetsPcOrRejectsTarget : Obligations.JpSetsPcOrRejectsTarget := by
  unfold Obligations.JpSetsPcOrRejectsTarget
  refine fun nnn s => ⟨fun hge => ?_, fun hlt => raises_of_exec_eq_raiseIn (exec_jpAddr_illegal hlt s)⟩
  exact ⟨_, exec_jpAddr hge s, toNat_addrWord nnn, unchangedBut_setPc s _⟩

/-- The state that `CALL` leaves: the advanced `pc` in the next entry, one more entry in use, and `pc` at the target (R143). -/
def State.called (s : State) (hlt : s.sp.val < stackDepth) (nnn : Addr12) : State :=
  { s with stack := s.stack.set s.sp.val s.pc hlt, sp := ⟨s.sp.val + 1, Nat.succ_lt_succ hlt⟩, pc := addrWord nnn }

theorem push_of_lt {s : State} (hlt : s.sp.val < stackDepth) (a : Word) :
    s.push a = some { s with stack := s.stack.set s.sp.val a hlt, sp := ⟨s.sp.val + 1, Nat.succ_lt_succ hlt⟩ } :=
  (State.push_eq_some_iff s _ a).2 ⟨hlt, rfl⟩

theorem exec_callAddr_eq_called {nnn : Addr12} {s : State} (hlt : s.sp.val < stackDepth) (hge : 0x200 ≤ nnn.toNat) :
    exec (.callAddr nnn) s = .next (s.called hlt nnn) := exec_callAddr (push_of_lt hlt s.pc) hge

theorem unchangedBut_called (s : State) (hlt : s.sp.val < stackDepth) (nnn : Addr12) :
    UnchangedBut [.pc, .sp, .stack] s (s.called hlt nnn) :=
  ((unchangedBut_push (push_of_lt hlt s.pc)).mono (by simp)).trans ((unchangedBut_setPc _ (addrWord nnn)).mono (by simp))

/-- Settles O4: a push succeeds exactly with room, and the target is checked after it. -/
theorem callPushesReturnAddressAndJumps : Obligations.CallPushesReturnAddressAndJumps := by
  unfold Obligations.CallPushesReturnAddressAndJumps
  refine fun nnn s => ⟨fun hlt hge => ?_, fun hfull => ?_, fun hlt hbad => ?_⟩
  · refine ⟨s.called hlt nnn, exec_callAddr_eq_called hlt hge, toNat_addrWord nnn, rfl, ?_, fun j hj => ?_,
      unchangedBut_called s hlt nnn⟩
    · exact Vector.getElem?_set_self hlt
    · exact Vector.getElem?_set_ne hlt hj.symm
  · exact raises_of_exec_eq_raiseIn (exec_callAddr_overflow ((s.push_eq_none_iff s.pc).2 hfull) nnn)
  · exact raises_of_exec_eq_raiseIn (exec_callAddr_illegal (push_of_lt hlt s.pc) hbad)

/-- Settles O5: the entry that the return pops is the one that the call pushed. -/
theorem callThenRetReturns : Obligations.CallThenRetReturns := by
  unfold Obligations.CallThenRetReturns
  intro nnn s t u a b hlt hge hcall hret
  cases (exec_callAddr_eq_called hlt hge).symm.trans hcall
  obtain ⟨v, hpop⟩ := exists_popPc_of_pos (s := { s.called hlt nnn with pc := a, redraw := b }) (Nat.succ_pos _)
  cases (exec_ret_of_popPc hpop).symm.trans hret
  obtain ⟨-, r, hr, n, hn, rfl⟩ := (State.popPc_eq_some_iff _ _).1 hpop
  have htop : r = s.pc := Option.some.inj (hr.symm.trans (Vector.getElem?_set_self hlt))
  have hdepth : n = s.sp := Fin.ext hn
  subst htop hdepth
  refine ⟨rfl, rfl, rfl, fun f hf => ?_⟩
  cases f with
  | pc | stack | redraw => simp at hf
  | mem => exact fun _ => rfl
  | v | i | sp | fb | dt | st | key | fault | draws => rfl

/-- Settles O8: the sum fits 16 bits. -/
theorem jpV0AddsRegisterZero : Obligations.JpV0AddsRegisterZero := by
  unfold Obligations.JpV0AddsRegisterZero
  exact fun nnn s => ⟨_, exec_jpV0 nnn s, toNat_addrWord_add_byteWord nnn (s.reg 0), unchangedBut_setPc s _⟩

end Sys2Proof.Machine
end

section
/-! The skips and the wait for a key (`42_skips.md`, `47_keypad.md`). -/

namespace Sys2Proof.Machine

/-- An instruction whose meaning is one `skipIf` meets the whole claim of `SkipsWhen`, for the condition that the flag decides. -/
theorem skipsWhen_of_exec_eq_skipIf {i : Instr} {s : State} {c : Bool} {p : Prop} (h : exec i s = .next (s.skipIf c))
    (hc : c = true ↔ p) : SkipsWhen i s p := by
  refine ⟨_, h, fun hp => ?_, fun hp => ?_, unchangedBut_skipIf s c⟩
  · rw [State.skipIf_pc, if_pos (hc.2 hp)]
  · rw [State.skipIf_pc, if_neg fun h => hp (hc.1 h)]

/-- Settles O6: each is one `skipIf` on a comparison. -/
theorem immediateSkipsFollowComparison : Obligations.ImmediateSkipsFollowComparison := by
  unfold Obligations.ImmediateSkipsFollowComparison
  refine fun x nn => ⟨decodeWord_encode (.seByte x nn), decodeWord_encode (.sneByte x nn), fun s => ⟨?_, ?_⟩⟩
  · exact skipsWhen_of_exec_eq_skipIf (exec_seByte x nn s) beq_iff_eq
  · exact skipsWhen_of_exec_eq_skipIf (exec_sneByte x nn s) bne_iff_ne

/-- Classes 5 and 9 reject a low nibble that is not 0 (R98). -/
theorem decodeWord_formatXYN_class5 {n : Nibble} (hn : n ≠ 0) (x y : Reg) :
    decodeWord (formatXYN 0x5 x y n) = .error .class5 := by
  rw [decodeWord, fieldOp_formatXYN, fieldN_formatXYN]
  exact if_neg hn

theorem decodeWord_formatXYN_class9 {n : Nibble} (hn : n ≠ 0) (x y : Reg) :
    decodeWord (formatXYN 0x9 x y n) = .error .class9 := by
  rw [decodeWord, fieldOp_formatXYN, fieldN_formatXYN]
  exact if_neg hn

/-- Settles O7: each is one `skipIf` on a comparison, and the decoder checks the low nibble. -/
theorem registerSkipsFollowComparison : Obligations.RegisterSkipsFollowComparison := by
  unfold Obligations.RegisterSkipsFollowComparison
  refine ⟨fun x y => ⟨decodeWord_encode (.seReg x y), decodeWord_encode (.sneReg x y)⟩, fun x y s => ⟨?_, ?_⟩, fun x y n hn => ?_⟩
  · exact skipsWhen_of_exec_eq_skipIf (exec_seReg x y s) beq_iff_eq
  · exact skipsWhen_of_exec_eq_skipIf (exec_sneReg x y s) bne_iff_ne
  · exact ⟨⟨_, decodeWord_formatXYN_class5 hn x y⟩, _, decodeWord_formatXYN_class9 hn x y⟩

/-- The key that the skips test, in the keypad's own indexing (R71, R195). -/
theorem getElem?_key_eq_keyDown (s : State) (b : Byte) : s.key[b.toNat % 16]? = some (s.keyDown (keyIndex b)) := by
  have hlt : (keyIndex b).val < Config.nKeys := (keyIndex b).isLt
  rw [← val_keyIndex b, Vector.getElem?_eq_getElem hlt, State.keyDown, Vector.get_eq_getElem]

/-- Settles O9: each is one `skipIf` on the key of the low nibble. -/
theorem keySkipsFollowKeypad : Obligations.KeySkipsFollowKeypad := by
  unfold Obligations.KeySkipsFollowKeypad
  refine fun x => ⟨decodeWord_encode (.skp x), decodeWord_encode (.sknp x), fun s => ?_⟩
  rw [getElem?_key_eq_keyDown]
  refine ⟨skipsWhen_of_exec_eq_skipIf (exec_skp x s) ?_, skipsWhen_of_exec_eq_skipIf (exec_sknp x s) ?_⟩
  · rw [Option.some.injEq]
  · rw [Option.some.injEq, Bool.not_eq_true']

/-- Settles O10: the scan finds the lowest pressed key, or none. -/
theorem waitForKeyTakesLowestOrWaits : Obligations.WaitForKeyTakesLowestOrWaits := by
  unfold Obligations.WaitForKeyTakesLowestOrWaits
  refine fun x s => ⟨fun k hk hlow => ?_, fun hnone => ?_⟩
  · exact setsReg_of_exec_eq_setReg (exec_ldVxK_of_key ((s.firstKey_eq_some_iff k).2 ⟨hk, hlow⟩) x)
  · exact ⟨_, exec_ldVxK_waits (s.firstKey_eq_none_iff.2 hnone) x, rfl, unchangedBut_setPc s _⟩

end Sys2Proof.Machine
end

section
/-! Immediates, class 8, `RND`, index register and timers (`43_immediate.md`, `44_alu.md`, `45_index_jump_random.md` R182,
`48_timers.md`, `49_index_memory.md` R205, R206). -/

namespace Sys2Proof.Machine

open Sys2Proof.Config

/-- Settles O12: a sum of bytes is the sum modulo 256. -/
theorem addByteWrapsWithoutFlag : Obligations.AddByteWrapsWithoutFlag := by
  unfold Obligations.AddByteWrapsWithoutFlag
  exact fun x nn s => ⟨s.reg x + nn, BitVec.toNat_add _ _, setsReg_of_exec_eq_setReg (exec_addByte x nn s)⟩

/-- Settles O13: one register write. -/
theorem ldRegCopies : Obligations.LdRegCopies := by
  unfold Obligations.LdRegCopies
  exact fun x y => ⟨decodeWord_encode (.ldReg x y), fun s => setsReg_of_exec_eq_setReg (exec_ldReg x y s)⟩

/-- Settles O14: a byte is its eight bits. -/
theorem logicCombinesBitsWithoutFlag : Obligations.LogicCombinesBitsWithoutFlag := by
  unfold Obligations.LogicCombinesBitsWithoutFlag
  intro x y s o a e ho ha he
  have hor : s.reg x ||| s.reg y = o := BitVec.eq_of_getLsbD_eq fun k hk => by rw [BitVec.getLsbD_or, ho k hk]
  have hand : s.reg x &&& s.reg y = a := BitVec.eq_of_getLsbD_eq fun k hk => by rw [BitVec.getLsbD_and, ha k hk]
  have hxor : s.reg x ^^^ s.reg y = e := BitVec.eq_of_getLsbD_eq fun k hk => by rw [BitVec.getLsbD_xor, he k hk]
  subst hor hand hxor
  exact ⟨setsReg_of_exec_eq_setReg (exec_orReg x y s), setsReg_of_exec_eq_setReg (exec_andReg x y s),
    setsReg_of_exec_eq_setReg (exec_xorReg x y s)⟩

/-- An instruction whose meaning is one `setFlagThenReg` meets the whole claim of `SetsFlagThenReg`. -/
theorem setsFlagThenReg_of_exec {i : Instr} {s : State} {x : Reg} {flag b : Byte} {result flagNat : Nat}
    (h : exec i s = .next (s.setFlagThenReg flag x b)) (hb : b.toNat = result) (hflag : flag.toNat = flagNat) :
    SetsFlagThenReg i s x result flagNat := by
  refine ⟨_, h, ?_, fun hx => ?_, regsUnchangedBut_setFlagThenReg s flag x b, unchangedBut_setFlagThenReg s flag x b⟩
  · rw [State.reg_setFlagThenReg, if_pos rfl, hb]
  · rw [State.reg_setFlagThenReg, if_neg hx.symm, if_pos rfl, hflag]

theorem toNat_b2n (c : Bool) : (b2n c).toNat = if c = true then 1 else 0 := by cases c <;> rfl

theorem toNat_b2n_decide (p : Prop) [Decidable p] : (b2n (decide p)).toNat = if p then 1 else 0 := by
  simp only [toNat_b2n, decide_eq_true_eq]

/-- Settles O15: result and flag are both computed from the operands before either is written. -/
theorem addRegSumAndCarry : Obligations.AddRegSumAndCarry := by
  unfold Obligations.AddRegSumAndCarry
  exact fun x y s => setsFlagThenReg_of_exec (exec_addReg x y s) (BitVec.toNat_add _ _) (toNat_b2n_decide _)

theorem toNat_sub_byte (a b : Byte) : (a - b).toNat = if b.toNat ≤ a.toNat then a.toNat - b.toNat else a.toNat + 256 - b.toNat := by
  have ha := a.isLt
  have hb := b.isLt
  rw [BitVec.toNat_sub]
  split <;> omega

/-- Settles O16: the bytes differ modulo 256, and the flag compares the operands. -/
theorem subtractDifferenceAndNoBorrow : Obligations.SubtractDifferenceAndNoBorrow := by
  unfold Obligations.SubtractDifferenceAndNoBorrow
  rintro x y s _ _ rfl rfl
  exact ⟨setsFlagThenReg_of_exec (exec_subReg x y s) (toNat_sub_byte _ _) (toNat_b2n_decide _),
    setsFlagThenReg_of_exec (exec_subnReg x y s) (toNat_sub_byte _ _) (toNat_b2n_decide _)⟩

/-- The low bit, shifted out to the right (R172). -/
theorem toNat_shrFlag (b : Byte) : (shrFlag b).toNat = b.toNat % 2 := by
  rw [shrFlag, toNat_b2n, BitVec.getLsbD, Nat.testBit_zero]
  rcases Nat.mod_two_eq_zero_or_one b.toNat with h | h <;> simp [h]

/-- The high bit, shifted out to the left (R174). -/
theorem toNat_shlFlag (b : Byte) : (shlFlag b).toNat = b.toNat / 128 := by
  have hb := b.isLt
  rw [shlFlag, toNat_b2n, BitVec.getLsbD, Nat.testBit_eq_decide_div_mod_eq]
  simp only [decide_eq_true_eq]
  split <;> omega

theorem toNat_shr_one (b : Byte) : (b >>> 1).toNat = b.toNat / 2 := by
  rw [BitVec.toNat_ushiftRight, Nat.shiftRight_eq_div_pow]

theorem toNat_shl_one (b : Byte) : (b <<< 1).toNat = b.toNat * 2 % 256 := by
  rw [BitVec.toNat_shiftLeft, Nat.shiftLeft_eq]

/-- Settles O17: neither meaning looks at the field `Y`. -/
theorem shiftsInPlaceIgnoringY : Obligations.ShiftsInPlaceIgnoringY := by
  unfold Obligations.ShiftsInPlaceIgnoringY
  exact fun x y s => ⟨setsFlagThenReg_of_exec (exec_shr x y s) (toNat_shr_one _) (toNat_shrFlag _),
    setsFlagThenReg_of_exec (exec_shl x y s) (toNat_shl_one _) (toNat_shlFlag _), fun _ => ⟨rfl, rfl⟩⟩

/-- Settles O18: a masked bit is 0 where the mask is. -/
theorem rndMasksFreshByte : Obligations.RndMasksFreshByte := by
  unfold Obligations.RndMasksFreshByte
  intro x nn s
  have hreg : (s.setReg x (rndByte s.draws &&& nn)).countDraw.reg x = rndByte s.draws &&& nn := by
    rw [State.reg_countDraw, State.reg_setReg, if_pos rfl]
  refine ⟨_, exec_rnd x nn s, hreg, fun k hk => ?_, rfl, regsUnchangedBut_setReg s x _, ?_⟩
  · rw [hreg, BitVec.getLsbD_and, hk, Bool.and_false]
  · exact ((unchangedBut_setReg s x _).mono (by simp)).trans ((unchangedBut_countDraw _).mono (by simp))

/-- Settles O20: a byte is zero-extended and the sum is modulo 65536. -/
theorem addIWrapsWithoutFlag : Obligations.AddIWrapsWithoutFlag := by
  unfold Obligations.AddIWrapsWithoutFlag
  refine fun x s => ⟨_, exec_addI x s, ?_, unchangedBut_setI s _⟩
  rw [State.setI_i, BitVec.toNat_add, toNat_byteWord]

/-- Settles O21: five bytes a glyph from `0x050` up. -/
theorem ldFLoadsGlyphAddress : Obligations.LdFLoadsGlyphAddress := by
  unfold Obligations.LdFLoadsGlyphAddress
  refine fun x => ⟨decodeWord_encode (.ldF x), fun s => ⟨_, exec_ldF x s, ?_, unchangedBut_setI s _⟩⟩
  rw [State.setI_i, toNat_glyphAddr, Nat.mul_comm]

/-- Settles O22: each is one write of a register or of a timer. -/
theorem timerMovesCopyOneByte : Obligations.TimerMovesCopyOneByte := by
  unfold Obligations.TimerMovesCopyOneByte
  exact fun x => ⟨decodeWord_encode (.ldVxDt x), decodeWord_encode (.ldDtVx x), decodeWord_encode (.ldStVx x), fun s =>
    ⟨setsReg_of_exec_eq_setReg (exec_ldVxDt x s), ⟨_, exec_ldDtVx x s, rfl, unchangedBut_setDt s _⟩,
      _, exec_ldStVx x s, rfl, unchangedBut_setSt s _⟩⟩

end Sys2Proof.Machine
end

section
/-! Transfers between registers and memory (`49_index_memory.md` R207 to R209, `20_memory.md` R67, R77). -/

namespace Sys2Proof.Machine

open Sys2Proof.Config

/-- The state that `LD [I], Vx` leaves (R208). -/
def State.storedRegs (s : State) (x : Reg) : State := s.setMem (s.mem.storeBytes s.i.toNat (s.regsUpTo x))

theorem read_storedRegs {x k : Reg} (hk : k ≤ x) (s : State) : (s.storedRegs x).mem.read (s.i.toNat + k.val) = s.reg k := by
  have hlt : k.val < (s.regsUpTo x).length := by rw [State.length_regsUpTo]; exact Nat.lt_succ_of_le hk
  rw [State.storedRegs, State.setMem_mem, Memory.read_storeBytes_inside _ _ _ _ hlt, State.getElem_regsUpTo]

theorem read_storedRegs_outside {s : State} {x : Reg} {a : Nat} (h : a < s.i.toNat ∨ s.i.toNat + x.val < a) :
    (s.storedRegs x).mem.read a = s.mem.read a :=
  Memory.read_storeBytes_outside _ _ (by rw [State.length_regsUpTo]; omega)

theorem exec_ldMemVx_eq_storedRegs {s : State} {x : Reg} (h : s.i.toNat + x.val ≤ 4095) :
    exec (.ldMemVx x) s = .next (s.storedRegs x) := exec_ldMemVx (Nat.succ_le_succ h)

/-- Settles O24: the stored bytes are the registers in order. -/
theorem storeRegsWritesInclusiveRange : Obligations.StoreRegsWritesInclusiveRange := by
  unfold Obligations.StoreRegsWritesInclusiveRange
  exact fun x s h => ⟨_, exec_ldMemVx_eq_storedRegs h, fun _ hk => read_storedRegs hk s, fun _ ha => read_storedRegs_outside ha,
    unchangedBut_setMem s _⟩

/-- The state that `LD Vx, [I]` leaves (R209). -/
def State.loadedRegs (s : State) (x : Reg) : State :=
  s.setRegs (writeRegs s.v 0 (s.mem.readBytes s.i.toNat (x.val + 1)))

theorem reg_loadedRegs (s : State) (x k : Reg) :
    (s.loadedRegs x).reg k = if k ≤ x then s.mem.read (s.i.toNat + k.val) else s.reg k := by
  rw [State.loadedRegs, State.reg, State.setRegs_v, get_writeRegs_readBytes]
  exact if_congr Nat.lt_succ_iff rfl rfl

theorem exec_ldVxMem_eq_loadedRegs {s : State} {x : Reg} (h : s.i.toNat + x.val ≤ 4095) :
    exec (.ldVxMem x) s = .next (s.loadedRegs x) := exec_ldVxMem (Nat.succ_le_succ h)

/-- Settles O25: the loaded bytes go to the registers in order. -/
theorem loadRegsReadsInclusiveRange : Obligations.LoadRegsReadsInclusiveRange := by
  unfold Obligations.LoadRegsReadsInclusiveRange
  refine fun x s h => ⟨_, exec_ldVxMem_eq_loadedRegs h, fun k hk => ?_, fun k hk => ?_, unchangedBut_setRegs s _⟩
  · rw [reg_loadedRegs, if_pos hk]
  · rw [reg_loadedRegs, if_neg (not_le_of_gt hk)]

/-- Settles O26: the load reads the bytes that the store wrote. -/
theorem loadRegsRestoresStoredRegs : Obligations.LoadRegsRestoresStoredRegs := by
  unfold Obligations.LoadRegsRestoresStoredRegs
  intro x s t u w h hstore hmem hi hload k hk
  cases (exec_ldMemVx_eq_storedRegs h).symm.trans hstore
  cases (exec_ldVxMem_eq_loadedRegs (hi ▸ h)).symm.trans hload
  rw [reg_loadedRegs, if_pos hk, hmem, hi, read_storedRegs hk]

/-- Settles O28: the fetch reads the first two bytes that the store wrote. -/
theorem storedBytesAreFetched : Obligations.StoredBytesAreFetched := by
  unfold Obligations.StoredBytesAreFetched
  intro x s t hx h hstore
  cases (exec_ldMemVx_eq_storedRegs h).symm.trans hstore
  have hfetch := State.fetch_of_le (s := { s.storedRegs x with pc := s.i }) (by show s.i.toNat ≤ 4094; omega)
  have hhigh : (s.storedRegs x).mem.read s.i.toNat = s.reg 0 := read_storedRegs (k := 0) (Fin.zero_le x) s
  have hlow : (s.storedRegs x).mem.read (s.i.toNat + 1) = s.reg 1 := read_storedRegs (k := 1) hx s
  exact hfetch.trans (congrArg some (congrArg₂ wordOfBytes hhigh hlow))

/-- Settles O23: each digit is below 256, so the byte holds it. -/
theorem ldBStoresDecimalDigits : Obligations.LdBStoresDecimalDigits := by
  unfold Obligations.LdBStoresDecimalDigits
  intro x s h
  have hb := (s.reg x).isLt
  have digit (k d : Nat) (hk : k < 3) (hd : (bcdDigits (s.reg x))[k] = BitVec.ofNat 8 d) (hlt : d < 256) :
      ((s.mem.storeBytes s.i.toNat (bcdDigits (s.reg x))).read (s.i.toNat + k)).toNat = d := by
    rw [Memory.read_storeBytes_inside _ _ _ _ hk, hd, BitVec.toNat_ofNat, Nat.mod_eq_of_lt hlt]
  refine ⟨_, exec_ldB (Nat.succ_le_succ h) x, ?_, ?_, ?_, fun a ha => ?_, unchangedBut_setMem s _⟩
  · exact digit 0 _ (by decide) rfl (by omega)
  · exact digit 1 _ (by decide) rfl (by omega)
  · exact digit 2 _ (by decide) rfl (by omega)
  · exact Memory.read_storeBytes_outside _ _ (by rw [length_bcdDigits]; omega)

/-- Settles O27: each range check fails, before any access. -/
theorem dataOutsideMemoryFaults : Obligations.DataOutsideMemoryFaults := by
  unfold Obligations.DataOutsideMemoryFaults
  refine fun s => ⟨fun x y n hn h => ?_, fun x h => ?_, fun x h => ?_, fun x h => ?_⟩
  · exact raises_of_exec_eq_raiseIn (exec_drw_outside hn (by simp only [memSize]; omega) x y)
  · exact raises_of_exec_eq_raiseIn (exec_ldB_outside (Nat.succ_lt_succ h) x)
  · exact raises_of_exec_eq_raiseIn (exec_ldMemVx_outside (Nat.succ_lt_succ h))
  · exact raises_of_exec_eq_raiseIn (exec_ldVxMem_outside (Nat.succ_lt_succ h))

end Sys2Proof.Machine
end

section
/-! Sprites (`46_draw.md` R185 to R187). -/

namespace Sys2Proof.Machine

open Sys2Proof.Config

/-- The framebuffer after the sprite of `DRW Vx, Vy, n`, and whether a lit cell was toggled (R185). -/
def State.toggled (s : State) (x y : Reg) (n : Nibble) : Framebuffer × Bool := s.fb.toggle false (s.spriteCells x y n)

/-- The state that `DRW` leaves. -/
def State.drawn (s : State) (x y : Reg) (n : Nibble) : State :=
  (s.drawFb (s.toggled x y n).1).setReg vf (b2n (s.toggled x y n).2)

theorem exec_drw_eq_drawn {s : State} {n : Nibble} (h : n = 0 ∨ s.i.toNat + n.toNat ≤ 4096) (x y : Reg) :
    exec (.drw x y n) s = .next (s.drawn x y n) :=
  exec_drw (h.imp_left fun hn => by rw [hn]; rfl) x y

theorem pixel_drawn_of_covers {s : State} {x y : Reg} {n : Nibble} {p : Pixel} (h : SpriteCovers s x y n p) :
    (s.drawn x y n).fb.pixel p = !s.fb.pixel p := by
  obtain ⟨hpixel, -⟩ := Framebuffer.toggle_spec _ s.fb false (s.nodup_spriteCells x y n)
  exact (hpixel p).trans (if_pos ((s.mem_spriteCells x y n p).2 h))

theorem pixel_drawn_of_not_covers {s : State} {x y : Reg} {n : Nibble} {p : Pixel} (h : ¬SpriteCovers s x y n p) :
    (s.drawn x y n).fb.pixel p = s.fb.pixel p := by
  obtain ⟨hpixel, -⟩ := Framebuffer.toggle_spec _ s.fb false (s.nodup_spriteCells x y n)
  exact (hpixel p).trans (if_neg fun hmem => h ((s.mem_spriteCells x y n p).1 hmem))

/-- A collision is a lit cell under the sprite (R185). -/
theorem toggled_hit_iff (s : State) (x y : Reg) (n : Nibble) :
    (s.toggled x y n).2 = true ↔ ∃ p, SpriteCovers s x y n p ∧ s.fb.pixel p = true := by
  obtain ⟨-, hhit⟩ := Framebuffer.toggle_spec _ s.fb false (s.nodup_spriteCells x y n)
  refine hhit.trans ?_
  simp [State.mem_spriteCells]

theorem reg_vf_drawn (s : State) (x y : Reg) (n : Nibble) : (s.drawn x y n).reg vf = b2n (s.toggled x y n).2 := by
  rw [State.drawn, State.reg_setReg, if_pos rfl]

theorem b2n_eq_one_iff (c : Bool) : b2n c = 1 ↔ c = true := by cases c <;> decide

theorem b2n_eq_zero_iff (c : Bool) : b2n c = 0 ↔ ¬c = true := by cases c <;> decide

theorem reg_vf_drawn_eq_one_iff (s : State) (x y : Reg) (n : Nibble) :
    (s.drawn x y n).reg vf = 1 ↔ ∃ p, SpriteCovers s x y n p ∧ s.fb.pixel p = true := by
  rw [reg_vf_drawn, b2n_eq_one_iff, toggled_hit_iff]

theorem reg_vf_drawn_eq_zero_iff (s : State) (x y : Reg) (n : Nibble) :
    (s.drawn x y n).reg vf = 0 ↔ ¬∃ p, SpriteCovers s x y n p ∧ s.fb.pixel p = true := by
  rw [reg_vf_drawn, b2n_eq_zero_iff, toggled_hit_iff]

theorem regsUnchangedBut_drawn (s : State) (x y : Reg) (n : Nibble) : RegsUnchangedBut [vf] s (s.drawn x y n) :=
  regsUnchangedBut_setReg (s.drawFb (s.toggled x y n).1) vf _

theorem unchangedBut_drawn (s : State) (x y : Reg) (n : Nibble) : UnchangedBut [.v, .fb, .redraw] s (s.drawn x y n) :=
  ((unchangedBut_drawFb s _).mono (by simp)).trans ((unchangedBut_setReg _ vf _).mono (by simp))

/-- Settles O29: the cells toggled are those covered, each once. -/
theorem drwInvertsCoveredCells : Obligations.DrwInvertsCoveredCells := by
  unfold Obligations.DrwInvertsCoveredCells
  exact fun x y n s h => ⟨s.drawn x y n, exec_drw_eq_drawn h x y, fun _ => pixel_drawn_of_covers, fun _ => pixel_drawn_of_not_covers,
    (reg_vf_drawn_eq_one_iff s x y n).2, (reg_vf_drawn_eq_zero_iff s x y n).2, rfl, regsUnchangedBut_drawn s x y n,
    unchangedBut_drawn s x y n⟩

/-- What a sprite covers depends on its rows and its two coordinates only. -/
theorem spriteCovers_congr {s t : State} {x y : Reg} (hmem : t.mem = s.mem) (hi : t.i = s.i) (hx : t.reg x = s.reg x)
    (hy : t.reg y = s.reg y) (n : Nibble) (p : Pixel) : SpriteCovers t x y n p ↔ SpriteCovers s x y n p := by
  unfold SpriteCovers
  rw [hmem, hi, hx, hy]

/-- Settles O30: the first draw leaves the rows and, as neither is `VF`, the coordinates, so the second covers the same cells and
inverts each back. -/
theorem drwTwiceRestoresFramebuffer : Obligations.DrwTwiceRestoresFramebuffer := by
  unfold Obligations.DrwTwiceRestoresFramebuffer
  intro x y n s t u a b hx hy hrange hfirst hsecond
  cases (exec_drw_eq_drawn hrange x y).symm.trans hfirst
  cases (exec_drw_eq_drawn (s := { s.drawn x y n with pc := a, redraw := b }) hrange x y).symm.trans hsecond
  have covers (p : Pixel) : SpriteCovers { s.drawn x y n with pc := a, redraw := b } x y n p ↔ SpriteCovers s x y n p :=
    spriteCovers_congr (s := s) (t := { s.drawn x y n with pc := a, redraw := b }) rfl rfl
      (regsUnchangedBut_drawn s x y n x (by simpa using hx)) (regsUnchangedBut_drawn s x y n y (by simpa using hy)) n p
  constructor
  · refine Framebuffer.ext_pixel fun p => ?_
    by_cases hp : SpriteCovers s x y n p
    · rw [pixel_drawn_of_covers ((covers p).2 hp)]
      exact (congrArg Bool.not (pixel_drawn_of_covers hp)).trans (Bool.not_not _)
    · rw [pixel_drawn_of_not_covers fun h => hp ((covers p).1 h)]
      exact pixel_drawn_of_not_covers hp
  · rw [reg_vf_drawn_eq_one_iff]
    exact exists_congr fun p => and_congr_left fun _ => covers p

end Sys2Proof.Machine
end

section
/-! The host's operations (`60_exceptions.md` R236 to R238, `70_reset_and_hazards.md` R260 to R265). -/

namespace Sys2Proof.Machine

open Sys2Proof.Config

/-- Settles O54: the stored bytes are the truncated image. -/
theorem loadCopiesImageTruncated : Obligations.LoadCopiesImageTruncated := by
  unfold Obligations.LoadCopiesImageTruncated
  have hlen (image : List Byte) : (image.take progCapacity).length = min image.length 3584 :=
    List.length_take.trans (Nat.min_comm _ _)
  refine fun s image => ⟨fun k hk hcap => ?_, fun a ha => ?_, unchangedBut_load s image⟩
  · have hlt : k < (image.take progCapacity).length := by rw [hlen]; exact lt_min hk hcap
    have hread : (s.load image).mem.read (0x200 + k) = (image.take progCapacity)[k] :=
      Memory.read_storeBytes_inside _ s.mem progBase k hlt
    rw [hread, List.getElem_take, List.getElem?_eq_getElem hk]
  · exact Memory.read_storeBytes_outside _ _ (by rw [hlen]; exact ha)

/-- Settles O55, by induction on the number of ticks. -/
theorem ticksCountBothTimersDown : Obligations.TicksCountBothTimersDown := by
  unfold Obligations.TicksCountBothTimersDown
  intro n s
  induction n with
  | zero => exact ⟨rfl, rfl, .refl _ s⟩
  | succ n ih =>
    obtain ⟨hdt, hst, hframe⟩ := ih
    rw [Function.iterate_succ_apply']
    refine ⟨?_, ?_, hframe.trans (unchangedBut_tick _)⟩
    · exact (toNat_countDown _).trans (by rw [hdt, Nat.sub_sub])
    · exact (toNat_countDown _).trans (by rw [hst, Nat.sub_sub])

theorem keyDown_keyWrite (s : State) (k j : Fin nKeys) (b : Bool) :
    (s.keyWrite k b).keyDown j = if j = k then b else s.keyDown j := by
  simp only [State.keyDown, State.keyWrite_key, Vector.get_eq_getElem, Vector.getElem_set, Fin.ext_iff, eq_comm]

/-- Settles O56: one flag of the vector is set. -/
theorem keyWriteSetsOneFlag : Obligations.KeyWriteSetsOneFlag := by
  unfold Obligations.KeyWriteSetsOneFlag
  refine fun s k b => ⟨?_, fun j hj => ?_, unchangedBut_keyWrite s k b⟩
  · rw [keyDown_keyWrite, if_pos rfl]
  · rw [keyDown_keyWrite, if_neg hj]

/-! ### Reset -/

theorem length_glyphRom : glyphRom.length = 80 := rfl

/-- Memory after reset is 0 outside the glyph set (R42, R61). -/
theorem background_outside {a : Nat} (h : a < 0x050 ∨ 0x09F < a) : Memory.background a = 0 := by
  unfold Memory.background
  split
  · exact List.getD_eq_default _ _ (by rw [length_glyphRom]; simp only [glyphBase] at *; omega)
  · rfl

/-- Memory after reset holds the glyph set from `0x050` up (R62). -/
theorem background_glyph {k : Nat} (h : k < 80) : glyphRom[k]? = some (Memory.background (0x050 + k)) := by
  have hlt : k < glyphRom.length := h
  rw [Memory.background, if_pos (Nat.le_add_right _ k), Nat.add_sub_cancel_left, List.getD_eq_getElem _ _ hlt,
    List.getElem?_eq_getElem hlt]

theorem keyDown_reset (k : Fin nKeys) : State.reset.keyDown k = false := by
  simp [State.keyDown, State.reset, Vector.get_eq_getElem]

theorem reg_reset (r : Reg) : State.reset.reg r = 0 := by
  simp [State.reg, State.reset, Vector.get_eq_getElem]

theorem getElem?_stack_reset {j : Nat} (h : j < 16) : State.reset.stack[j]? = some 0 := by
  simp [State.reset, h]

/-- Settles O53: every field but the count of draws is the reset state's. -/
theorem resetZeroesAllAndRewritesGlyphs : Obligations.ResetZeroesAllAndRewritesGlyphs := by
  unfold Obligations.ResetZeroesAllAndRewritesGlyphs
  rintro s _ rfl
  refine ⟨reg_reset, rfl, rfl, rfl, fun j hj => getElem?_stack_reset hj, fun a ha => background_outside ha,
    fun k hk => background_glyph hk, Framebuffer.pixel_blank, rfl, rfl, keyDown_reset, rfl, rfl, rfl, fun f hf => ?_⟩
  cases f with
  | draws => simp at hf
  | mem => exact fun _ => rfl
  | v | i | pc | sp | stack | fb | dt | st | key | redraw | fault => rfl

end Sys2Proof.Machine
end
